-- ==== Sys2Proof/Word.lean ====
section
/-! DEFINITION. The words of the block (spec/00_scope.md R9, R11, R12): bit patterns only; how a pattern is read as a
number is in Machine/Ops.lean. -/

namespace Sys2Proof

/-- A lane value: a 16-bit pattern (R9 `LANE_W`, R12). -/
abbrev Lane := BitVec 16

/-- One lane of the accumulator as a 48-bit pattern (R9 `ACC_W`, R23). -/
abbrev AccLane := BitVec 48

/-- A 32-bit word: an instruction word (R52) or a scalar value (R51, R55). -/
abbrev Word := BitVec 32

/-- The index of a lane, 0..7 (R9 `N_LANES`, R20). -/
abbrev LaneIx := Fin 8

/-- The index of a vector register or of a scalar register, 0..31 (R9 `N_VR`, R55). -/
abbrev RegIx := Fin 32

/-- Eight 16-bit lanes: one vector register, or one word of every accumulator lane (R20, R21, R23). -/
abbrev Lanes := Vector Lane 8

end Sys2Proof
end

