-- ==== Sys2Proof/Config.lean ====
section
/-! DEFINITION. The parameters of spec/00_scope.md R10 that are fixed for one machine. INIT_STATE, the third parameter of
R10, is an argument of Machine.State.ofInit. -/

namespace Sys2Proof

/-- The two values of parameter `P_UCLAMP` (R10): which unsigned clamp VMULU and VMACU use. -/
inductive UClampRule where
  /-- The source's rules: R72 for VMULU, R73 for VMACU. -/
  | doc
  /-- The general-knowledge alternative: R74 for both. -/
  | ref
  deriving DecidableEq, Repr

/-- The two values of parameter `P_SWZ1` (R10): what element code 1 does. -/
inductive SwizzleOneRule where
  /-- The source's formula: the odd lane of each pair (R75). -/
  | doc
  /-- The general-knowledge alternative: the identity (R75, rule note). -/
  | ref
  deriving DecidableEq, Repr

/-- `P_UCLAMP`, at the value this spec gives it (R10; 92_eei_decisions.md D15). DESIGN CHOICE of the spec, unsafe: log 6. -/
def Config.pUClamp : UClampRule := .doc

/-- `P_SWZ1`, at the value this spec gives it (R10; 92_eei_decisions.md D16). DESIGN CHOICE of the spec, unsafe: log 7. -/
def Config.pSwz1 : SwizzleOneRule := .doc

end Sys2Proof
end

