-- ==== Sys2Proof/Syntax.lean ====
section
/-! DEFINITION. The instructions of spec/opcode_table.json, one constructor per row. -/

namespace Sys2Proof

/-- One instruction. The first 14 are operation requests (R50): `vd`, `vs`, `vt` and `e` are the numbers the requester
supplies, which the block refuses outside their ranges (R161); a decoded word never leaves the ranges (R53). The last two
are the flag-port words (R55): `rt` names a scalar register and `rd` is the flag select, each a 5-bit field. -/
inductive Instr where
  /-- VMULF: signed fractional multiply, rounded (R90). -/
  | vmulf (vd vs vt e : Nat)
  /-- VMULU: fractional multiply, unsigned clamp (R91). -/
  | vmulu (vd vs vt e : Nat)
  /-- VMUDL: unsigned low partial product (R92). -/
  | vmudl (vd vs vt e : Nat)
  /-- VMUDM: signed-by-unsigned middle partial product (R93). -/
  | vmudm (vd vs vt e : Nat)
  /-- VMUDN: unsigned-by-signed low partial product (R94). -/
  | vmudn (vd vs vt e : Nat)
  /-- VMUDH: signed high partial product (R95). -/
  | vmudh (vd vs vt e : Nat)
  /-- VMACF: signed fractional multiply-accumulate (R110). -/
  | vmacf (vd vs vt e : Nat)
  /-- VMACU: fractional multiply-accumulate, unsigned clamp (R111). -/
  | vmacu (vd vs vt e : Nat)
  /-- VMADL: unsigned low partial product, accumulated (R112). -/
  | vmadl (vd vs vt e : Nat)
  /-- VMADM: signed-by-unsigned middle partial product, accumulated (R113). -/
  | vmadm (vd vs vt e : Nat)
  /-- VMADN: unsigned-by-signed low partial product, accumulated (R114). -/
  | vmadn (vd vs vt e : Nat)
  /-- VMADH: signed high partial product, accumulated (R115). -/
  | vmadh (vd vs vt e : Nat)
  /-- VCL: clip compare, carry-aware, unsigned (R131). -/
  | vcl (vd vs vt e : Nat)
  /-- VCR: clip compare, sign-based, one's complement (R132). -/
  | vcr (vd vs vt e : Nat)
  /-- CTC2: `FlagWrite(rd, GPR[rt])` (R55, R150). -/
  | ctc2 (rt rd : RegIx)
  /-- CFC2: `GPR[rt] <- FlagRead(rd)` (R55, R151). -/
  | cfc2 (rt rd : RegIx)
  deriving DecidableEq, Repr

end Sys2Proof
end

