-- ==== Sys2Proof/WellFormed.lean ====
section
/-! DEFINITION. Which instructions are well formed: those whose operands lie in the ranges of spec/30_encoding.md R50,
that is, those an instruction word can hold (R52, R55). -/

namespace Sys2Proof

/-- The ranges of R50: register indices 0..31 and the element specifier 0..15. -/
def operandsInRange (vd vs vt e : Nat) : Bool :=
  decide (vd < 32) && decide (vs < 32) && decide (vt < 32) && decide (e < 16)

/-- An instruction is well formed when every operand is in the range its field can hold. The 5-bit fields of the flag-port
words are in range by their type; a flag select of 3 or more is a well-formed word that the port refuses (R152). -/
def Instr.wellFormed : Instr → Bool
  | .vmulf vd vs vt e => operandsInRange vd vs vt e
  | .vmulu vd vs vt e => operandsInRange vd vs vt e
  | .vmudl vd vs vt e => operandsInRange vd vs vt e
  | .vmudm vd vs vt e => operandsInRange vd vs vt e
  | .vmudn vd vs vt e => operandsInRange vd vs vt e
  | .vmudh vd vs vt e => operandsInRange vd vs vt e
  | .vmacf vd vs vt e => operandsInRange vd vs vt e
  | .vmacu vd vs vt e => operandsInRange vd vs vt e
  | .vmadl vd vs vt e => operandsInRange vd vs vt e
  | .vmadm vd vs vt e => operandsInRange vd vs vt e
  | .vmadn vd vs vt e => operandsInRange vd vs vt e
  | .vmadh vd vs vt e => operandsInRange vd vs vt e
  | .vcl vd vs vt e => operandsInRange vd vs vt e
  | .vcr vd vs vt e => operandsInRange vd vs vt e
  | .ctc2 _ _ => true
  | .cfc2 _ _ => true

end Sys2Proof
end

