-- ==== Sys2Proof/Decode.lean ====
section
/-! DEFINITION. Decoding and encoding of the 32-bit instruction words (spec/30_encoding.md R52 to R60). The layout is the
spec's, which it marks as general knowledge (log 10). -/

namespace Sys2Proof

/-- Why the decoder refuses a word (R57, R58, R161). -/
inductive DecodeRefusal where
  /-- `FUNCT_NOT_IN_BLOCK(funct)`: a COP2-VU word whose `funct` is none of the 14 (R57). -/
  | functNotInBlock (funct : BitVec 6)
  /-- `NOT_BLOCK_WORD`: any other word that is no instruction of the block (R58). -/
  | notBlockWord
  deriving DecidableEq, Repr

/-- `word[lo+4 : lo]` as a register number (R53: unsigned, not scaled). -/
def regField (w : Word) (lo : Nat) : RegIx :=
  ⟨(w.extractLsb' lo 5).toNat, (w.extractLsb' lo 5).isLt⟩

/-- The element specifier `word[24:21]` (R53). -/
def elementField (w : Word) : Nat := (w.extractLsb' 21 4).toNat

/-- `FUNCT_MAP` (R54): the operation of a function code, awaiting `vd vs vt e`. -/
def functMap (funct : BitVec 6) : Option (Nat → Nat → Nat → Nat → Instr) :=
  match funct.toNat with
  | 0x00 => some .vmulf
  | 0x01 => some .vmulu
  | 0x04 => some .vmudl
  | 0x05 => some .vmudm
  | 0x06 => some .vmudn
  | 0x07 => some .vmudh
  | 0x08 => some .vmacf
  | 0x09 => some .vmacu
  | 0x0C => some .vmadl
  | 0x0D => some .vmadm
  | 0x0E => some .vmadn
  | 0x0F => some .vmadh
  | 0x24 => some .vcl
  | 0x26 => some .vcr
  | _ => none

/-- `word[31:25]` of every COP2-VU word (R52). -/
def cop2VuTag : BitVec 7 := 0b0100101#7

/-- `word[31:21]` of every CTC2 word (R55). -/
def ctc2Tag : BitVec 11 := 0b01001000110#11

/-- `word[31:21]` of every CFC2 word (R55). -/
def cfc2Tag : BitVec 11 := 0b01001000010#11

/-- The decoder, total over 32-bit words (R60): COP2-VU words by R53, R54 and R57; CTC2 and CFC2 words with bits 10:0 zero
by R55; every other word is refused (R58). -/
def decodeWord (w : Word) : Except DecodeRefusal Instr :=
  if w.extractLsb' 25 7 = cop2VuTag then
    match functMap (w.extractLsb' 0 6) with
    | some mk => .ok (mk (regField w 6).val (regField w 11).val (regField w 16).val (elementField w))
    | none => .error (.functNotInBlock (w.extractLsb' 0 6))
  else if w.extractLsb' 0 11 = 0#11 then
    if w.extractLsb' 21 11 = ctc2Tag then .ok (.ctc2 (regField w 16) (regField w 11))
    else if w.extractLsb' 21 11 = cfc2Tag then .ok (.cfc2 (regField w 16) (regField w 11))
    else .error .notBlockWord
  else .error .notBlockWord

/-- A COP2-VU word from its fields: `010010 1 eeee ttttt sssss ddddd ffffff` (R52). -/
def vuWord (funct : BitVec 6) (vd vs vt e : Nat) : Word :=
  cop2VuTag ++ BitVec.ofNat 4 e ++ BitVec.ofNat 5 vt ++ BitVec.ofNat 5 vs ++ BitVec.ofNat 5 vd ++ funct

/-- A CTC2 or CFC2 word from its fields (R55). -/
def moveWord (tag : BitVec 11) (rt rd : RegIx) : Word :=
  tag ++ BitVec.ofNat 5 rt.val ++ BitVec.ofNat 5 rd.val ++ 0#11

/-- The word of a well-formed instruction (R52, R54, R55). -/
def encode : Instr → Word
  | .vmulf vd vs vt e => vuWord 0x00#6 vd vs vt e
  | .vmulu vd vs vt e => vuWord 0x01#6 vd vs vt e
  | .vmudl vd vs vt e => vuWord 0x04#6 vd vs vt e
  | .vmudm vd vs vt e => vuWord 0x05#6 vd vs vt e
  | .vmudn vd vs vt e => vuWord 0x06#6 vd vs vt e
  | .vmudh vd vs vt e => vuWord 0x07#6 vd vs vt e
  | .vmacf vd vs vt e => vuWord 0x08#6 vd vs vt e
  | .vmacu vd vs vt e => vuWord 0x09#6 vd vs vt e
  | .vmadl vd vs vt e => vuWord 0x0C#6 vd vs vt e
  | .vmadm vd vs vt e => vuWord 0x0D#6 vd vs vt e
  | .vmadn vd vs vt e => vuWord 0x0E#6 vd vs vt e
  | .vmadh vd vs vt e => vuWord 0x0F#6 vd vs vt e
  | .vcl vd vs vt e => vuWord 0x24#6 vd vs vt e
  | .vcr vd vs vt e => vuWord 0x26#6 vd vs vt e
  | .ctc2 rt rd => moveWord ctc2Tag rt rd
  | .cfc2 rt rd => moveWord cfc2Tag rt rd

/-- The instruction the decoder reads from the bits `w` of a table row of `nbits` bits: every instruction is one 32-bit word
(R61), its bits above `nbits` zero; the block has no byte order (R43), so the number is the word. -/
def decodeTableWord (nbits w : Nat) : Option Instr :=
  if nbits ≤ 32 then
    match decodeWord (BitVec.ofNat 32 (w % 2 ^ nbits)) with
    | .ok i => some i
    | .error _ => none
  else none

end Sys2Proof
end

