-- ==== Sys2Proof/Machine/State.lean ====
section
/-! DEFINITION. The state of the machine as plain data (spec/10_state.md), the requests it can be given (spec/30_encoding.md
R50, R51; spec/20_memory.md R41), and the ways a step can stop (spec/60_exceptions.md). -/

namespace Sys2Proof.Machine

/-- The operand fields of an operation request, in the order in which a refusal names them (R161, R163). -/
inductive OperandField where
  | vd
  | vs
  | vt
  | e
  deriving DecidableEq, Repr

/-- The three flag registers (R26, R27, R28). -/
inductive FlagReg where
  /-- Carry and not-equal, 16 bits, select 0. -/
  | vco
  /-- Compare result, 16 bits, select 1. -/
  | vcc
  /-- Carry extension, 8 bits, select 2. -/
  | vce
  deriving DecidableEq, Repr

/-- Faults. The block raises no exception (R160) and no interrupt (R165), so there is no fault to name: every stop of this
machine is a refusal. -/
inductive Fault where
  deriving DecidableEq, Repr

/-- Refusals: the block's `refuse(reason)` (R161). A refused request changes no state and returns no value. Each is safe: the
model stops where the source allows "undefined behavior or a fatal assertion". -/
inductive Refusal where
  /-- Raised by exec for an instruction that has no meaning yet. Safe. No arm of this model uses it. -/
  | notModelled (mnemonic : String)
  /-- `INDEX_OUT_OF_RANGE(field, value)`: raised by an operation request whose `vd`, `vs` or `vt` is outside 0..31 or whose
  `e` is outside 0..15 (R161). Safe. -/
  | indexOutOfRange (field : OperandField) (value : Nat)
  /-- `HOST_INDEX_OUT_OF_RANGE(r)`: raised by a host-port transaction whose `r` is outside 0..31 (R41, R161). Safe. -/
  | hostIndexOutOfRange (r : Nat)
  /-- `FLAG_SEL_INVALID(sel)`: raised by a flag-port transaction whose `sel` is 3 or more (R152, R161). Safe. -/
  | flagSelInvalid (sel : Nat)
  /-- `FUNCT_NOT_IN_BLOCK(funct)`: raised by the decoder for a COP2-VU word with another function code (R57, R161). Safe. -/
  | functNotInBlock (funct : BitVec 6)
  /-- `NOT_BLOCK_WORD`: raised by the decoder for any other word (R58, R161). Safe. -/
  | notBlockWord
  deriving DecidableEq, Repr

/-- What the requester may issue. Each is one step of the block (92_eei_decisions.md D1). -/
inductive Request where
  /-- A 32-bit instruction word, for the decoder (R52, R55). -/
  | word (w : Word)
  /-- An operation request, or a CTC2 or CFC2 transfer, already decoded (R50). -/
  | instr (i : Instr)
  /-- `FlagWrite(sel, value)` (R51, R150). -/
  | flagWrite (sel : Nat) (value : Word)
  /-- `FlagRead(sel)` (R51, R151). -/
  | flagRead (sel : Nat)
  /-- `HostWriteVR(r, v)` (R41). -/
  | hostWrite (r : Nat) (v : Lanes)
  /-- `HostReadVR(r)` (R41). -/
  | hostRead (r : Nat)
  deriving DecidableEq, Repr

/-- A value the block returned to the requester. -/
inductive Reply where
  /-- The value of a `FlagRead` of that register (R151). -/
  | flag (reg : FlagReg) (value : Word)
  /-- The value of a `HostReadVR` of that register (R41). -/
  | vector (r : RegIx) (v : Lanes)
  deriving DecidableEq, Repr

/-- The whole machine: the block's five pieces of state (R20 to R28), the scalar file its two transfer words use (R55), and
the model's own record of what was issued and what was returned (log 4, log 8). -/
structure State where
  /-- The vector register file `VR` (R21). -/
  vr : Vector Lanes 32
  /-- `ACC_L`, the low word of every accumulator lane (R23). -/
  accL : Lanes
  /-- `ACC_M`, the mid word of every accumulator lane (R23). -/
  accM : Lanes
  /-- `ACC_H`, the high word of every accumulator lane (R23). -/
  accH : Lanes
  /-- `VCO`: bit `i` carry-in, bit `i+8` not-equal, of lane `i` (R26). -/
  vco : BitVec 16
  /-- `VCC`: bit `i` the `le` bit, bit `i+8` the `ge` bit, of lane `i` (R27). -/
  vcc : BitVec 16
  /-- `VCE`: bit `i` the carry-extension bit of lane `i` (R28). -/
  vce : BitVec 8
  /-- The scalar register file `GPR` of the requester (R55; log 2). -/
  gpr : Vector Word 32
  /-- The requests issued and not yet served, oldest first (R36, R46; log 4). -/
  requests : List Request
  /-- The values returned so far, oldest first (R41, R151; log 8). -/
  replies : List Reply
  deriving DecidableEq, Repr

/-- `INIT_STATE` (R10, R34): what every piece of the block's state holds when the block starts. -/
structure InitState where
  vr : Vector Lanes 32
  accL : Lanes
  accM : Lanes
  accH : Lanes
  vco : BitVec 16
  vcc : BitVec 16
  vce : BitVec 8
  deriving DecidableEq, Repr

/-- Reset with a given `INIT_STATE` (R180): a context in that state, ready for its first request; the scalar file, which is
not the block's, is given too. -/
def State.ofInit (init : InitState) (gpr : Vector Word 32) : State where
  vr := init.vr
  accL := init.accL
  accM := init.accM
  accH := init.accH
  vco := init.vco
  vcc := init.vcc
  vce := init.vce
  gpr := gpr
  requests := []
  replies := []

/-- The `INIT_STATE` the model names for its one reset state: zero everywhere. DESIGN CHOICE, unsafe: the spec leaves it
unspecified (R34) and no statement rests on it (log 1). -/
def InitState.zero : InitState where
  vr := Vector.replicate 32 (Vector.replicate 8 0#16)
  accL := Vector.replicate 8 0#16
  accM := Vector.replicate 8 0#16
  accH := Vector.replicate 8 0#16
  vco := 0#16
  vcc := 0#16
  vce := 0#8

/-- The machine right after reset (R180): nothing issued, nothing returned, the block at `InitState.zero` (log 1) and the
scalar file at zero (log 3). -/
def State.reset : State := State.ofInit InitState.zero (Vector.replicate 32 0#32)

end Sys2Proof.Machine
end

