-- ==== Sys2Proof/Machine/Ops.lean ====
section
/-! DEFINITION. The named operations over lanes, vector registers and the accumulator (spec/00_scope.md section 4,
spec/40_primitives.md sections 3 to 5). The block takes no exception and returns from none (R160, R166, R167), so there is
no exception entry here. -/

namespace Sys2Proof.Machine

open Host (Outcome)

/-! ## How a pattern is read as a number (R12) -/

/-- `uint16(x)`: the unsigned reading of a lane, in [0, 65535] (R12). -/
def uint16 (x : Lane) : Int := (x.toNat : Int)

/-- `sint16(x)`: the two's-complement reading of a lane, in [-32768, 32767] (R12). -/
def sint16 (x : Lane) : Int := x.toInt

/-- `sint32(H, M)`: `H·2^16 + M` as a 32-bit two's-complement number (00_scope.md section 4). -/
def sint32 (h m : Lane) : Int := (h ++ m).toInt

/-- `sint48(a)`: a 48-bit pattern as two's complement (R23). -/
def sint48 (a : AccLane) : Int := a.toInt

/-! ## The four product kinds, exact (R77) -/

/-- `SS(s, t)`: signed by signed (R77). -/
def productSS (s t : Lane) : Int := sint16 s * sint16 t

/-- `SU(s, t)`: signed `s` by unsigned `t` (R77). -/
def productSU (s t : Lane) : Int := sint16 s * uint16 t

/-- `US(s, t)`: unsigned `s` by signed `t` (R77). -/
def productUS (s t : Lane) : Int := uint16 s * sint16 t

/-- `UU(s, t)`: unsigned by unsigned (R77). -/
def productUU (s t : Lane) : Int := uint16 s * uint16 t

/-! ## Accumulator lanes (R23, R80, R82) -/

/-- The 48-bit pattern of three accumulator words: `H·2^32 + M·2^16 + L` (R23). -/
def joinAcc (h m l : Lane) : AccLane := h ++ m ++ l

/-- `ACC_H`: bits 47:32 of an accumulator lane (R82 `split48`). -/
def accHigh (a : AccLane) : Lane := a.extractLsb' 32 16

/-- `ACC_M`: bits 31:16 of an accumulator lane (R82 `split48`). -/
def accMid (a : AccLane) : Lane := a.extractLsb' 16 16

/-- `ACC_L`: bits 15:0 of an accumulator lane (R82 `split48`). -/
def accLow (a : AccLane) : Lane := a.extractLsb' 0 16

/-- An exact integer cut to 48 bits, `x mod 2^48` (R13). -/
def toAcc (x : Int) : AccLane := BitVec.ofInt 48 x

/-- `AccAdd(A, x) = (A + x) mod 2^48`: no saturation (R80). -/
def accAdd (a : AccLane) (x : Int) : AccLane := toAcc ((a.toNat : Int) + x)

/-! ## Lanes, registers and the accumulator in the state -/

/-- Eight lanes computed from one lane function, all at once (R85, R86). -/
def laneMap (f : LaneIx → Lane) : Lanes := Vector.ofFn f

/-- `VR[r][i]` (R21). -/
def State.lane (s : State) (r : RegIx) (i : LaneIx) : Lane := (s.vr.get r).get i

/-- `VR[r] <- v`, the whole register (R22, R30). -/
def State.writeVR (s : State) (r : RegIx) (v : Lanes) : State := { s with vr := s.vr.set r.val v r.isLt }

/-- `ACC[i]`, the 48-bit pattern of lane `i` (R23). -/
def State.acc (s : State) (i : LaneIx) : AccLane := joinAcc (s.accH.get i) (s.accM.get i) (s.accL.get i)

/-- Write-back of all three words of every accumulator lane (R82). -/
def State.writeAcc (s : State) (a : LaneIx → AccLane) : State :=
  { s with
    accH := laneMap fun i => accHigh (a i)
    accM := laneMap fun i => accMid (a i)
    accL := laneMap fun i => accLow (a i) }

/-- Write-back of the high and mid words of every accumulator lane; `ACC_L` is not written (R82, R115). -/
def State.writeAccHighMid (s : State) (h m : LaneIx → Lane) : State :=
  { s with accH := laneMap h, accM := laneMap m }

/-- Write-back of the low word of every accumulator lane; `ACC_M` and `ACC_H` are not written (R82, R134). -/
def State.writeAccLow (s : State) (l : LaneIx → Lane) : State := { s with accL := laneMap l }

/-- `GPR[r]` of the scalar side (R55). -/
def State.readGPR (s : State) (r : RegIx) : Word := s.gpr.get r

/-- `GPR[r] <- v` of the scalar side (R55). No entry is hard-wired (log 2). -/
def State.writeGPR (s : State) (r : RegIx) (v : Word) : State := { s with gpr := s.gpr.set r.val v r.isLt }

/-! ## The requester's two ends -/

/-- Takes the oldest request not yet served, in issue order (R46). -/
def State.takeRequest (s : State) : Option (Request × State) :=
  match s.requests with
  | [] => none
  | r :: rest => some (r, { s with requests := rest })

/-- Returns a value to the requester (R41, R151). -/
def State.reply (s : State) (r : Reply) : State := { s with replies := s.replies ++ [r] }

/-- What the requester goes on from when a request was refused: the request is spent and nothing else changed (R161). -/
def State.afterRefusal (s : State) : State := { s with requests := s.requests.tail }

end Sys2Proof.Machine
end

