-- ==== Sys2Proof/Machine/Clamp.lean ====
section
/-! DEFINITION. ClampingPolicy (spec/40_primitives.md R70 to R74): the 16-bit result of a lane from its new accumulator
words. -/

namespace Sys2Proof.Machine

/-- The in-range test the two signed clamps share: `H` is the sign extension of `M` (R70, R71). -/
def midFits (h m : Lane) : Bool := h == (if m.msb then 0xFFFF#16 else 0x0000#16)

/-- SignedClampMid (R70). -/
def signedClampMid (h m : Lane) : Lane :=
  if midFits h m then m
  else if h.msb then 0x8000#16
  else 0x7FFF#16

/-- SignedClampLow (R71): the test is on `(H, M)` only. -/
def signedClampLow (h m l : Lane) : Lane :=
  if midFits h m then l
  else if h.msb then 0x0000#16
  else 0xFFFF#16

/-- UnsignedClampMid, VMULU's clamp under `P_UCLAMP = DOC` (R72). -/
def unsignedClampMid (h m : Lane) : Lane :=
  if h.msb then 0x0000#16
  else if h ≠ 0x0000#16 then 0xFFFF#16
  else m

/-- UnsignedClampMidMACU, VMACU's clamp under `P_UCLAMP = DOC` (R73; 92_eei_decisions.md D14, log 13). -/
def unsignedClampMidMACU (h m : Lane) : Lane :=
  if h.msb then 0x0000#16
  else if h ≠ 0x0000#16 then 0xFFFF#16
  else if m.msb then 0x0000#16
  else m

/-- UnsignedClampRef, the clamp of both under `P_UCLAMP = REF` (R74). -/
def unsignedClampRef (h m : Lane) : Lane :=
  if h.msb then 0x0000#16
  else if sint32 h m > 0x7FFF then 0xFFFF#16
  else m

/-- VMULU's clamp under either value of `P_UCLAMP` (R91). -/
def vmuluClamp (rule : UClampRule) (h m : Lane) : Lane :=
  match rule with
  | .doc => unsignedClampMid h m
  | .ref => unsignedClampRef h m

/-- VMACU's clamp under either value of `P_UCLAMP` (R111). -/
def vmacuClamp (rule : UClampRule) (h m : Lane) : Lane :=
  match rule with
  | .doc => unsignedClampMidMACU h m
  | .ref => unsignedClampRef h m

end Sys2Proof.Machine
end

