-- ==== Sys2Proof/Machine/Operands.lean ====
section
/-! DEFINITION. The operands of an operation request: the range checks (spec/60_exceptions.md R161, R163), the element
swizzle (spec/40_primitives.md R75) and the swizzled operand (R76). -/

namespace Sys2Proof.Machine

open Host (Outcome)

/-- The operands of an operation request once their ranges are checked (R50). -/
structure Operands where
  vd : RegIx
  vs : RegIx
  vt : RegIx
  e : Fin 16
  deriving DecidableEq, Repr

/-- The contract of R50. A violation is refused, and the first field out of range in the order `vd`, `vs`, `vt`, `e` is the
one named (R161, R163). -/
def checkOperands (vd vs vt e : Nat) : Except Refusal Operands :=
  if hvd : vd < 32 then
    if hvs : vs < 32 then
      if hvt : vt < 32 then
        if he : e < 16 then .ok ⟨⟨vd, hvd⟩, ⟨vs, hvs⟩, ⟨vt, hvt⟩, ⟨e, he⟩⟩
        else .error (.indexOutOfRange .e e)
      else .error (.indexOutOfRange .vt vt)
    else .error (.indexOutOfRange .vs vs)
  else .error (.indexOutOfRange .vd vd)

/-- Runs an operation on checked operands, or refuses the request and changes nothing (R161). -/
def withOperands (vd vs vt e : Nat) (run : Operands → State) : Outcome State Fault Refusal :=
  match checkOperands vd vs vt e with
  | .ok o => .next (run o)
  | .error r => .refused r

/-- ElementSwizzle as a number: the VT source lane for element code `e` and output lane `i` (R75). -/
def swizzleNat (rule : SwizzleOneRule) (e i : Nat) : Nat :=
  if e = 0 then i
  else if e = 1 ∧ rule = .ref then i
  else if e < 4 then (e &&& 1) ||| (i &&& 0xE)
  else if e < 8 then (e &&& 3) ||| (i &&& 0xC)
  else e &&& 7

/-- Every source lane of the swizzle is a lane (R75: the table's entries are 0..7). -/
theorem swizzleNat_lt (rule : SwizzleOneRule) (e : Fin 16) (i : LaneIx) : swizzleNat rule e.val i.val < 8 := by
  cases rule <;> revert e i <;> decide

/-- `swz(e, i)` (R75). -/
def swz (rule : SwizzleOneRule) (e : Fin 16) (i : LaneIx) : LaneIx :=
  ⟨swizzleNat rule e.val i.val, swizzleNat_lt rule e i⟩

/-- `VR[vs][i]`, the first operand of lane `i`: never swizzled (R56, R76). -/
def State.vsLane (s : State) (o : Operands) (i : LaneIx) : Lane := s.lane o.vs i

/-- `VT'[i] = VR[vt][swz(e, i)]`, the swizzled second operand of lane `i` (R76). -/
def State.vtLane (s : State) (o : Operands) (i : LaneIx) : Lane := s.lane o.vt (swz Config.pSwz1 o.e i)

/-- An operation that writes all three accumulator words of every lane, and `VR[vd]` from the new words: every value is read
from the state before it (R82, R85). `newAcc` takes the lane's old accumulator, `VR[vs][i]` and `VT'[i]`; `result` takes the
new high, mid and low words. -/
def accumulatorOp (o : Operands) (newAcc : AccLane → Lane → Lane → AccLane) (result : Lane → Lane → Lane → Lane)
    (s : State) : State :=
  let a : LaneIx → AccLane := fun i => newAcc (s.acc i) (s.vsLane o i) (s.vtLane o i)
  (s.writeAcc a).writeVR o.vd (laneMap fun i => result (accHigh (a i)) (accMid (a i)) (accLow (a i)))

/-- An operation that writes the high and mid accumulator words of every lane and keeps `ACC_L`, and `VR[vd]` from the new
words: every value is read from the state before it (R82, R85, R115). `newHigh` and `newMid` take the lane's old high and
mid words, `VR[vs][i]` and `VT'[i]`. -/
def accumulatorHighMidOp (o : Operands) (newHigh newMid : Lane → Lane → Lane → Lane → Lane) (result : Lane → Lane → Lane)
    (s : State) : State :=
  let h : LaneIx → Lane := fun i => newHigh (s.accH.get i) (s.accM.get i) (s.vsLane o i) (s.vtLane o i)
  let m : LaneIx → Lane := fun i => newMid (s.accH.get i) (s.accM.get i) (s.vsLane o i) (s.vtLane o i)
  (s.writeAccHighMid h m).writeVR o.vd (laneMap fun i => result (h i) (m i))

end Sys2Proof.Machine
end

