-- ==== Sys2Proof/Machine/Accumulate.lean ====
section
/-! DEFINITION. The multiply-accumulate family (spec/42_accumulate.md R110 to R116): a product is added into the accumulator
of each lane, and the new accumulator is clamped to the lane's result. -/

namespace Sys2Proof.Machine

open Host (Outcome)

/-- VMACF's and VMACU's new accumulator: `AccAdd(ACC, 2·SS)`, the addend exact (R110, R111; 92_eei_decisions.md D13). -/
def vmacfAcc (a : AccLane) (s t : Lane) : AccLane := accAdd a (2 * productSS s t)

/-- VMADL's new accumulator: `AccAdd(ACC, floor(UU / 2^16))` (R112). -/
def vmadlAcc (a : AccLane) (s t : Lane) : AccLane := accAdd a (productUU s t / 2 ^ 16)

/-- VMADM's new accumulator: `AccAdd(ACC, SU)` (R113). -/
def vmadmAcc (a : AccLane) (s t : Lane) : AccLane := accAdd a (productSU s t)

/-- VMADN's new accumulator: `AccAdd(ACC, US)` (R114). -/
def vmadnAcc (a : AccLane) (s t : Lane) : AccLane := accAdd a (productUS s t)

/-- VMADH's mid word before it is cut: `m = ACC_M + P[15:0]`, with `P` the 32-bit pattern of `SS` (R115). -/
def vmadhMidSum (m s t : Lane) : Nat := m.toNat + ((BitVec.ofInt 32 (productSS s t)).extractLsb' 0 16).toNat

/-- VMADH's new mid word: `lo16(m)` (R115). -/
def vmadhMid (m s t : Lane) : Lane := BitVec.ofNat 16 (vmadhMidSum m s t)

/-- VMADH's new high word: `lo16(ACC_H + P[31:16] + floor(m / 2^16))` (R115). -/
def vmadhHigh (h m s t : Lane) : Lane :=
  BitVec.ofNat 16
    (h.toNat + ((BitVec.ofInt 32 (productSS s t)).extractLsb' 16 16).toNat + vmadhMidSum m s t / 2 ^ 16)

/-- VMACF (R110). -/
def execVmacf (vd vs vt e : Nat) (s : State) : Outcome State Fault Refusal :=
  withOperands vd vs vt e fun o => accumulatorOp o vmacfAcc (fun h m _ => signedClampMid h m) s

/-- VMACU (R111). -/
def execVmacu (vd vs vt e : Nat) (s : State) : Outcome State Fault Refusal :=
  withOperands vd vs vt e fun o => accumulatorOp o vmacfAcc (fun h m _ => vmacuClamp Config.pUClamp h m) s

/-- VMADL (R112). -/
def execVmadl (vd vs vt e : Nat) (s : State) : Outcome State Fault Refusal :=
  withOperands vd vs vt e fun o => accumulatorOp o vmadlAcc signedClampLow s

/-- VMADM (R113). -/
def execVmadm (vd vs vt e : Nat) (s : State) : Outcome State Fault Refusal :=
  withOperands vd vs vt e fun o => accumulatorOp o vmadmAcc (fun h m _ => signedClampMid h m) s

/-- VMADN (R114). -/
def execVmadn (vd vs vt e : Nat) (s : State) : Outcome State Fault Refusal :=
  withOperands vd vs vt e fun o => accumulatorOp o vmadnAcc signedClampLow s

/-- VMADH (R115): `ACC_L` is neither read nor written. -/
def execVmadh (vd vs vt e : Nat) (s : State) : Outcome State Fault Refusal :=
  withOperands vd vs vt e fun o =>
    accumulatorHighMidOp o vmadhHigh (fun _ m x y => vmadhMid m x y) signedClampMid s

end Sys2Proof.Machine
end

