-- ==== Sys2Proof/Machine/Flags.lean ====
section
/-! DEFINITION. The flag registers' bits, lane by lane (spec/10_state.md R26 to R28; spec/43_compare_select.md R130), how VCC
is rebuilt (R131, R132), and the flag registers as the port sees them (R31). -/

namespace Sys2Proof.Machine

/-- `carry = VCO[i]` (R26, R130). -/
def State.carry (s : State) (i : LaneIx) : Bool := s.vco.getLsbD i.val

/-- `eq = (VCO[i+8] == 0)` (R26, R130; 90_conflicts.md C7). -/
def State.eqFlag (s : State) (i : LaneIx) : Bool := !s.vco.getLsbD (i.val + 8)

/-- `le_prev = VCC[i]` (R27, R130). -/
def State.lePrev (s : State) (i : LaneIx) : Bool := s.vcc.getLsbD i.val

/-- `ge_prev = VCC[i+8]` (R27, R130). -/
def State.gePrev (s : State) (i : LaneIx) : Bool := s.vcc.getLsbD (i.val + 8)

/-- `ce = VCE[i]` (R28, R130). -/
def State.ce (s : State) (i : LaneIx) : Bool := s.vce.getLsbD i.val

/-- Eight flag bits, bit `i` from lane `i` (R11). -/
def laneBits (f : LaneIx → Bool) : BitVec 8 :=
  BitVec.ofBool (f 7) ++ BitVec.ofBool (f 6) ++ BitVec.ofBool (f 5) ++ BitVec.ofBool (f 4) ++
  BitVec.ofBool (f 3) ++ BitVec.ofBool (f 2) ++ BitVec.ofBool (f 1) ++ BitVec.ofBool (f 0)

/-- A rebuilt VCC: bit `i` is `le` and bit `i+8` is `ge` of lane `i` (R27, R131, R132). -/
def packVCC (le ge : LaneIx → Bool) : BitVec 16 := laneBits ge ++ laneBits le

/-- What one lane of a compare-select operation decides (R131, R132). -/
structure LaneChoice where
  /-- The value written to `ACC_L[i]` and `VR[vd][i]`. -/
  res : Lane
  /-- The new `VCC[i]`. -/
  le : Bool
  /-- The new `VCC[i+8]`. -/
  ge : Bool
  deriving DecidableEq, Repr

/-- What VCL and VCR share: the chosen values go to `ACC_L` and `VR[vd]`, VCC is rebuilt, VCO and VCE are cleared, and every
value is read from the state before the operation (R85, R133, R134). -/
def compareSelectOp (o : Operands) (choice : LaneIx → LaneChoice) (s : State) : State :=
  let t := (s.writeAccLow fun i => (choice i).res).writeVR o.vd (laneMap fun i => (choice i).res)
  { t with vcc := packVCC (fun i => (choice i).le) (fun i => (choice i).ge), vco := 0#16, vce := 0#8 }

/-- The flag register a select number names (R31); 3 and above name none (R152). -/
def flagReg? (sel : Nat) : Option FlagReg :=
  match sel with
  | 0 => some .vco
  | 1 => some .vcc
  | 2 => some .vce
  | _ => none

/-- The raw flag register, zero-extended to 32 bits (R151). -/
def State.readFlag (s : State) (reg : FlagReg) : Word :=
  match reg with
  | .vco => s.vco.setWidth 32
  | .vcc => s.vcc.setWidth 32
  | .vce => s.vce.setWidth 32

/-- The flag register replaced whole; bits of `value` above its width are ignored (R150). -/
def State.writeFlag (s : State) (reg : FlagReg) (value : Word) : State :=
  match reg with
  | .vco => { s with vco := value.extractLsb' 0 16 }
  | .vcc => { s with vcc := value.extractLsb' 0 16 }
  | .vce => { s with vce := value.extractLsb' 0 8 }

end Sys2Proof.Machine
end

