-- ==== Sys2Proof/Machine/CompareSelect.lean ====
section
/-! DEFINITION. The compare-select family (spec/43_compare_select.md R130 to R134). -/

namespace Sys2Proof.Machine

open Host (Outcome)

/-- `le` of VCL's carry-set branch when `eq` holds, from the exact 17-bit sum of the unsigned readings (R131). -/
def vclSumLe (x y : Lane) (ce : Bool) : Bool :=
  let sum := uint16 x + uint16 y
  let lz := decide (sum % 2 ^ 16 = 0)
  let uz := decide (sum < 2 ^ 16)
  (ce && (lz || uz)) || (!ce && lz && uz)

/-- One lane of VCL (R131): `x` is VS, `y` is the swizzled VT. -/
def vclLane (x y : Lane) (carry eq lePrev gePrev ce : Bool) : LaneChoice :=
  if carry then
    let le := if eq then vclSumLe x y ce else lePrev
    { le := le, ge := gePrev, res := if le then BitVec.ofInt 16 (2 ^ 16 - uint16 y) else x }
  else
    let ge := if eq then decide (uint16 x - uint16 y ≥ 0) else gePrev
    { le := lePrev, ge := ge, res := if ge then y else x }

/-- One lane of VCR (R132; 90_conflicts.md C2): `x` is VS, `y` is the swizzled VT. -/
def vcrLane (x y : Lane) : LaneChoice :=
  if x.msb ≠ y.msb then
    let le := decide (sint16 x + sint16 y < 0)
    { le := le, ge := decide (sint16 y < 0), res := if le then y ^^^ 0xFFFF#16 else x }
  else
    let ge := decide (sint16 x - sint16 y ≥ 0)
    { le := decide (sint16 y < 0), ge := ge, res := if ge then y else x }

/-- VCL (R131). -/
def execVcl (vd vs vt e : Nat) (s : State) : Outcome State Fault Refusal :=
  withOperands vd vs vt e fun o =>
    compareSelectOp o
      (fun i => vclLane (s.vsLane o i) (s.vtLane o i) (s.carry i) (s.eqFlag i) (s.lePrev i) (s.gePrev i) (s.ce i)) s

/-- VCR (R132): it reads no flag. -/
def execVcr (vd vs vt e : Nat) (s : State) : Outcome State Fault Refusal :=
  withOperands vd vs vt e fun o => compareSelectOp o (fun i => vcrLane (s.vsLane o i) (s.vtLane o i)) s

end Sys2Proof.Machine
end

