-- ==== Sys2Proof/Machine/FlagPort.lean ====
section
/-! DEFINITION. The flag transfer port (spec/44_flag_transfer.md R150 to R154) and the two instruction words that drive it
(spec/30_encoding.md R55). -/

namespace Sys2Proof.Machine

open Host (Outcome)

/-- `FlagWrite(sel, value)` (R150); a `sel` of 3 or more is refused (R152). -/
def flagWrite (sel : Nat) (value : Word) (s : State) : Outcome State Fault Refusal :=
  match flagReg? sel with
  | some reg => .next (s.writeFlag reg value)
  | none => .refused (.flagSelInvalid sel)

/-- `FlagRead(sel)` (R151), its value handed to `store`; a `sel` of 3 or more is refused and no value is returned (R152). -/
def flagRead (sel : Nat) (store : FlagReg → Word → State) (s : State) : Outcome State Fault Refusal :=
  match flagReg? sel with
  | some reg => .next (store reg (s.readFlag reg))
  | none => .refused (.flagSelInvalid sel)

/-- A raw `FlagRead(sel)` transaction: the value goes to the requester (R51, R151). -/
def flagReadReply (sel : Nat) (s : State) : Outcome State Fault Refusal :=
  flagRead sel (fun reg v => s.reply (.flag reg v)) s

/-- CTC2: `FlagWrite(rd, GPR[rt])` (R55, R150). -/
def execCtc2 (rt rd : RegIx) (s : State) : Outcome State Fault Refusal := flagWrite rd.val (s.readGPR rt) s

/-- CFC2: the requester stores the value of `FlagRead(rd)` in `GPR[rt]` (R55, R151; log 9). -/
def execCfc2 (rt rd : RegIx) (s : State) : Outcome State Fault Refusal :=
  flagRead rd.val (fun _ v => s.writeGPR rt v) s

end Sys2Proof.Machine
end

