-- ==== Sys2Proof/Machine/Multiply.lean ====
section
/-! DEFINITION. The multiply family (spec/41_multiply.md R90 to R96): all three accumulator words of every lane are
overwritten with a value that depends on the operands alone. -/

namespace Sys2Proof.Machine

open Host (Outcome)

/-- VMULF's and VMULU's new accumulator: `(2·SS + 0x8000) mod 2^48` (R90, R91). -/
def vmulfAcc (s t : Lane) : AccLane := toAcc (2 * productSS s t + 0x8000)

/-- VMUDL's new accumulator: low is `floor(UU / 2^16)`, mid and high are 0 (R92; 90_conflicts.md C1). -/
def vmudlAcc (s t : Lane) : AccLane := joinAcc 0x0000#16 0x0000#16 (BitVec.ofInt 16 (productUU s t / 2 ^ 16))

/-- VMUDM's new accumulator: `SU mod 2^48` (R93). -/
def vmudmAcc (s t : Lane) : AccLane := toAcc (productSU s t)

/-- VMUDN's new accumulator: `US mod 2^48` (R94). -/
def vmudnAcc (s t : Lane) : AccLane := toAcc (productUS s t)

/-- VMUDH's new accumulator: the 32-bit pattern of `SS` in high and mid, low 0 (R95). -/
def vmudhAcc (s t : Lane) : AccLane := BitVec.ofInt 32 (productSS s t) ++ 0x0000#16

/-- VMULF (R90). -/
def execVmulf (vd vs vt e : Nat) (s : State) : Outcome State Fault Refusal :=
  withOperands vd vs vt e fun o => accumulatorOp o (fun _ x y => vmulfAcc x y) (fun h m _ => signedClampMid h m) s

/-- VMULU (R91). -/
def execVmulu (vd vs vt e : Nat) (s : State) : Outcome State Fault Refusal :=
  withOperands vd vs vt e fun o =>
    accumulatorOp o (fun _ x y => vmulfAcc x y) (fun h m _ => vmuluClamp Config.pUClamp h m) s

/-- VMUDL (R92): the result is the low word. -/
def execVmudl (vd vs vt e : Nat) (s : State) : Outcome State Fault Refusal :=
  withOperands vd vs vt e fun o => accumulatorOp o (fun _ x y => vmudlAcc x y) (fun _ _ l => l) s

/-- VMUDM (R93): the result is the mid word. -/
def execVmudm (vd vs vt e : Nat) (s : State) : Outcome State Fault Refusal :=
  withOperands vd vs vt e fun o => accumulatorOp o (fun _ x y => vmudmAcc x y) (fun _ m _ => m) s

/-- VMUDN (R94): the result is the low word. -/
def execVmudn (vd vs vt e : Nat) (s : State) : Outcome State Fault Refusal :=
  withOperands vd vs vt e fun o => accumulatorOp o (fun _ x y => vmudnAcc x y) (fun _ _ l => l) s

/-- VMUDH (R95). -/
def execVmudh (vd vs vt e : Nat) (s : State) : Outcome State Fault Refusal :=
  withOperands vd vs vt e fun o => accumulatorOp o (fun _ x y => vmudhAcc x y) (fun h m _ => signedClampMid h m) s

end Sys2Proof.Machine
end

