-- ==== Sys2Proof/Machine/Dispatch.lean ====
section
/-! DEFINITION. One arm per instruction: each is one direct call of the instruction's meaning. -/

namespace Sys2Proof.Machine

open Host (Outcome)

def exec (i : Instr) (s : State) : Host.Outcome State Fault Refusal :=
  match i with
  | .vmulf vd vs vt e => Sys2Proof.Machine.execVmulf vd vs vt e s
  | .vmulu vd vs vt e => Sys2Proof.Machine.execVmulu vd vs vt e s
  | .vmudl vd vs vt e => Sys2Proof.Machine.execVmudl vd vs vt e s
  | .vmudm vd vs vt e => Sys2Proof.Machine.execVmudm vd vs vt e s
  | .vmudn vd vs vt e => Sys2Proof.Machine.execVmudn vd vs vt e s
  | .vmudh vd vs vt e => Sys2Proof.Machine.execVmudh vd vs vt e s
  | .vmacf vd vs vt e => Sys2Proof.Machine.execVmacf vd vs vt e s
  | .vmacu vd vs vt e => Sys2Proof.Machine.execVmacu vd vs vt e s
  | .vmadl vd vs vt e => Sys2Proof.Machine.execVmadl vd vs vt e s
  | .vmadm vd vs vt e => Sys2Proof.Machine.execVmadm vd vs vt e s
  | .vmadn vd vs vt e => Sys2Proof.Machine.execVmadn vd vs vt e s
  | .vmadh vd vs vt e => Sys2Proof.Machine.execVmadh vd vs vt e s
  | .vcl vd vs vt e => Sys2Proof.Machine.execVcl vd vs vt e s
  | .vcr vd vs vt e => Sys2Proof.Machine.execVcr vd vs vt e s
  | .ctc2 rt rd => Sys2Proof.Machine.execCtc2 rt rd s
  | .cfc2 rt rd => Sys2Proof.Machine.execCfc2 rt rd s

end Sys2Proof.Machine
end

