-- ==== Sys2Proof/Machine/HostPort.lean ====
section
/-! DEFINITION. The host register port (spec/20_memory.md R41) and the register-image convention (R42), which no rule of the
block uses. -/

namespace Sys2Proof.Machine

open Host (Outcome)

/-- `HostWriteVR(r, v)` (R41). -/
def hostWriteVR (r : Nat) (v : Lanes) (s : State) : Outcome State Fault Refusal :=
  if h : r < 32 then .next (s.writeVR ⟨r, h⟩ v) else .refused (.hostIndexOutOfRange r)

/-- `HostReadVR(r)`: the register goes to the requester and nothing of the block changes (R41). -/
def hostReadVR (r : Nat) (s : State) : Outcome State Fault Refusal :=
  if h : r < 32 then .next (s.reply (.vector ⟨r, h⟩ (s.vr.get ⟨r, h⟩))) else .refused (.hostIndexOutOfRange r)

/-- A register as one 128-bit image: lane `i` in bits `[127-16i : 112-16i]` (R42; log 12). -/
def laneImage (v : Lanes) : BitVec 128 :=
  v.get 0 ++ v.get 1 ++ v.get 2 ++ v.get 3 ++ v.get 4 ++ v.get 5 ++ v.get 6 ++ v.get 7

/-- The lanes of a 128-bit image (R42; log 12). -/
def lanesOfImage (x : BitVec 128) : Lanes := laneMap fun i => x.extractLsb' (112 - 16 * i.val) 16

/-- Byte `k` (0..15) of a register in memory byte order: lane 0 at the lowest address, each lane big-endian (R42; log 12). -/
def imageByte (v : Lanes) (k : Fin 16) : BitVec 8 := (laneImage v).extractLsb' (120 - 8 * k.val) 8

end Sys2Proof.Machine
end

