-- ==== Sys2Proof/Machine/Serve.lean ====
section
/-! DEFINITION. Serving one request of the requester (spec/20_memory.md R46; spec/92_eei_decisions.md D1). -/

namespace Sys2Proof.Machine

open Host (Outcome)

/-- The decoder's refusals as the block reports them (R161). -/
def refusalOfDecode : DecodeRefusal → Refusal
  | .functNotInBlock funct => .functNotInBlock funct
  | .notBlockWord => .notBlockWord

/-- A 32-bit word: decoded, then run; a word the decoder refuses changes nothing (R57, R58, R60). -/
def runWord (w : Word) (s : State) : Outcome State Fault Refusal :=
  match decodeWord w with
  | .ok i => exec i s
  | .error r => .refused (refusalOfDecode r)

/-- One request, run to completion (R46). -/
def serve (r : Request) (s : State) : Outcome State Fault Refusal :=
  match r with
  | .word w => runWord w s
  | .instr i => exec i s
  | .flagWrite sel value => flagWrite sel value s
  | .flagRead sel => flagReadReply sel s
  | .hostWrite n v => hostWriteVR n v s
  | .hostRead n => hostReadVR n s

end Sys2Proof.Machine
end

