-- ==== Sys2Proof/Machine/Step.lean ====
section
/-! DEFINITION. One step of the block: it serves the oldest request the requester has issued (spec/20_memory.md R46;
spec/92_eei_decisions.md D1). -/

namespace Sys2Proof.Machine

open Host (Outcome)

/-- One step: the oldest request is taken and served (R46); with no request pending the block holds all its state unchanged
(R175; log 11). -/
def step (s : State) : Outcome State Fault Refusal :=
  match s.takeRequest with
  | none => .next s
  | some (r, t) => serve r t

/-- The instruction word `w` of `nbits` bits, the bits above them zero, issued as the next request (log 4): the very next
step decodes and runs it. -/
def State.withFetchWord (s : State) (nbits w : Nat) : State :=
  { s with requests := .word (BitVec.ofNat 32 (w % 2 ^ nbits)) :: s.requests }

end Sys2Proof.Machine
end

