-- ==== Sys2Proof/Machine/Reference.lean ====
section
/-! DEFINITION. The other forms the spec gives of the same computations, which statements compare with the model's: the
word-by-word carry (spec/40_primitives.md R80, R81), the corrected products (R78), and the 8-iteration scalar loop (R86).
Nothing of the machine calls them. -/

namespace Sys2Proof.Machine

open Host (Outcome)

/-- The carry primitive: the sum of two words overflowed exactly when it is below the addend, unsigned (R81). -/
def carryOut (new addend : Lane) : Bool := decide (new.toNat < addend.toNat)

/-- A carry as a word. -/
def carryWord (c : Bool) : Lane := if c then 1#16 else 0#16

/-- AccAdd word by word: low, then mid with the carry out of low (the carry primitive applied to each of its two additions),
then high; the carry out of high is discarded (R80, R81). -/
def accAddByWords (a : AccLane) (x : Int) : AccLane :=
  let w := toAcc x
  let l' := accLow a + accLow w
  let c0 := carryOut l' (accLow w)
  let m1 := accMid a + accMid w
  let m' := m1 + carryWord c0
  let c1 := carryOut m1 (accMid w) || carryOut m' (carryWord c0)
  let h' := accHigh a + accHigh w + carryWord c1
  joinAcc h' m' l'

/-- `SU` by correction of the unsigned product (R78). -/
def productSUCorrected (s t : Lane) : Int := productUU s t - (if s.msb then 2 ^ 16 * uint16 t else 0)

/-- `US` by the symmetric correction (R78). -/
def productUSCorrected (s t : Lane) : Int := productUU s t - (if t.msb then 2 ^ 16 * uint16 s else 0)

/-- Writes one lane of a vector register. -/
def State.writeLane (s : State) (r : RegIx) (i : LaneIx) (v : Lane) : State :=
  s.writeVR r ((s.vr.get r).set i.val v i.isLt)

/-- Writes the high and mid words of one accumulator lane. -/
def State.writeAccLaneHighMid (s : State) (i : LaneIx) (h m : Lane) : State :=
  { s with accH := s.accH.set i.val h i.isLt, accM := s.accM.set i.val m i.isLt }

/-- Writes the low word of one accumulator lane. -/
def State.writeAccLaneLow (s : State) (i : LaneIx) (l : Lane) : State := { s with accL := s.accL.set i.val l i.isLt }

/-- `accumulatorOp` as a scalar loop over the lanes in the given order: each iteration computes one lane from the snapshot
`s` and writes that lane of the destinations (R85, R86). -/
def accumulatorLoop (order : List LaneIx) (o : Operands) (newAcc : AccLane → Lane → Lane → AccLane)
    (result : Lane → Lane → Lane → Lane) (s : State) : State :=
  order.foldl (fun t i =>
    let a := newAcc (s.acc i) (s.vsLane o i) (s.vtLane o i)
    ((t.writeAccLaneHighMid i (accHigh a) (accMid a)).writeAccLaneLow i (accLow a)).writeLane o.vd i
      (result (accHigh a) (accMid a) (accLow a))) s

/-- `accumulatorHighMidOp` as a scalar loop (R85, R86, R115). -/
def accumulatorHighMidLoop (order : List LaneIx) (o : Operands) (newHigh newMid : Lane → Lane → Lane → Lane → Lane)
    (result : Lane → Lane → Lane) (s : State) : State :=
  order.foldl (fun t i =>
    let h := newHigh (s.accH.get i) (s.accM.get i) (s.vsLane o i) (s.vtLane o i)
    let m := newMid (s.accH.get i) (s.accM.get i) (s.vsLane o i) (s.vtLane o i)
    (t.writeAccLaneHighMid i h m).writeLane o.vd i (result h m)) s

/-- One bit of a 16-bit flag register replaced. -/
def setFlagBit (x : BitVec 16) (k : Nat) (b : Bool) : BitVec 16 :=
  if b then x ||| BitVec.twoPow 16 k else x &&& ~~~(BitVec.twoPow 16 k)

/-- `compareSelectOp` as a scalar loop, VCO and VCE cleared after all lanes (R86, R131, R132). -/
def compareSelectLoop (order : List LaneIx) (o : Operands) (choice : LaneIx → LaneChoice) (s : State) : State :=
  let t := order.foldl (fun t i =>
    let u := (t.writeAccLaneLow i (choice i).res).writeLane o.vd i (choice i).res
    { u with vcc := setFlagBit (setFlagBit u.vcc i.val (choice i).le) (i.val + 8) (choice i).ge }) s
  { t with vco := 0#16, vce := 0#8 }

/-- Every instruction, its lanes computed by the scalar loop in the given order (R86). The two transfer instructions have no
lanes. -/
def execByLoop (order : List LaneIx) (i : Instr) (s : State) : Outcome State Fault Refusal :=
  match i with
  | .vmulf vd vs vt e =>
    withOperands vd vs vt e fun o => accumulatorLoop order o (fun _ x y => vmulfAcc x y) (fun h m _ => signedClampMid h m) s
  | .vmulu vd vs vt e =>
    withOperands vd vs vt e fun o =>
      accumulatorLoop order o (fun _ x y => vmulfAcc x y) (fun h m _ => vmuluClamp Config.pUClamp h m) s
  | .vmudl vd vs vt e =>
    withOperands vd vs vt e fun o => accumulatorLoop order o (fun _ x y => vmudlAcc x y) (fun _ _ l => l) s
  | .vmudm vd vs vt e =>
    withOperands vd vs vt e fun o => accumulatorLoop order o (fun _ x y => vmudmAcc x y) (fun _ m _ => m) s
  | .vmudn vd vs vt e =>
    withOperands vd vs vt e fun o => accumulatorLoop order o (fun _ x y => vmudnAcc x y) (fun _ _ l => l) s
  | .vmudh vd vs vt e =>
    withOperands vd vs vt e fun o => accumulatorLoop order o (fun _ x y => vmudhAcc x y) (fun h m _ => signedClampMid h m) s
  | .vmacf vd vs vt e =>
    withOperands vd vs vt e fun o => accumulatorLoop order o vmacfAcc (fun h m _ => signedClampMid h m) s
  | .vmacu vd vs vt e =>
    withOperands vd vs vt e fun o => accumulatorLoop order o vmacfAcc (fun h m _ => vmacuClamp Config.pUClamp h m) s
  | .vmadl vd vs vt e => withOperands vd vs vt e fun o => accumulatorLoop order o vmadlAcc signedClampLow s
  | .vmadm vd vs vt e =>
    withOperands vd vs vt e fun o => accumulatorLoop order o vmadmAcc (fun h m _ => signedClampMid h m) s
  | .vmadn vd vs vt e => withOperands vd vs vt e fun o => accumulatorLoop order o vmadnAcc signedClampLow s
  | .vmadh vd vs vt e =>
    withOperands vd vs vt e fun o =>
      accumulatorHighMidLoop order o vmadhHigh (fun _ m x y => vmadhMid m x y) signedClampMid s
  | .vcl vd vs vt e =>
    withOperands vd vs vt e fun o =>
      compareSelectLoop order o
        (fun i => vclLane (s.vsLane o i) (s.vtLane o i) (s.carry i) (s.eqFlag i) (s.lePrev i) (s.gePrev i) (s.ce i)) s
  | .vcr vd vs vt e =>
    withOperands vd vs vt e fun o => compareSelectLoop order o (fun i => vcrLane (s.vsLane o i) (s.vtLane o i)) s
  | .ctc2 rt rd => execCtc2 rt rd s
  | .cfc2 rt rd => execCfc2 rt rd s

end Sys2Proof.Machine
end

