-- ==== Sys2Proof/Safety.lean ====
section
/-! DEFINITION. The terms in which claims speak of a run: which requests keep the block's contract (spec/60_exceptions.md
R160, R161), which pieces of state a request reads and writes (spec/10_state.md R25, R29; spec/70_reset_and_hazards.md R182),
and which sequences of requests read nothing that is still INIT_STATE (R183, R184). -/

namespace Sys2Proof.Machine

open Host (Outcome)

/-! ## The contract -/

/-- The constructors of the 14 operations (R5), each awaiting `vd vs vt e`. -/
def vuOps : List (Nat → Nat → Nat → Nat → Instr) :=
  [.vmulf, .vmulu, .vmudl, .vmudm, .vmudn, .vmudh, .vmacf, .vmacu, .vmadl, .vmadm, .vmadn, .vmadh, .vcl, .vcr]

/-- The instruction is inside the block's contract: operands in range (R50) and, for the flag port, a select of 0..2 (R51). -/
def inContract (i : Instr) : Bool :=
  match i with
  | .ctc2 _ rd => decide (rd.val < 3)
  | .cfc2 _ rd => decide (rd.val < 3)
  | _ => i.wellFormed

/-- A valid request: one that keeps the contract and so is not refused (R160, R161). -/
def validRequest : Request → Bool
  | .word w =>
    match decodeWord w with
    | .ok i => inContract i
    | .error _ => false
  | .instr i => inContract i
  | .flagWrite sel _ => decide (sel < 3)
  | .flagRead sel => decide (sel < 3)
  | .hostWrite r _ => decide (r < 32)
  | .hostRead r => decide (r < 32)

/-- Every request still to be served is valid. -/
def allValid (s : State) : Bool := s.requests.all validRequest

/-! ## Pieces of state -/

/-- A piece of state as the read-before-write table of R182 counts them; `gpr` is the scalar side's (R55). -/
inductive Piece where
  | vr (r : RegIx)
  | accL
  | accM
  | accH
  | vco
  | vcc
  | vce
  | gpr (r : RegIx)
  deriving DecidableEq, Repr

/-- Two states hold the same in one piece. -/
def samePiece (s t : State) : Piece → Prop
  | .vr r => s.vr.get r = t.vr.get r
  | .accL => s.accL = t.accL
  | .accM => s.accM = t.accM
  | .accH => s.accH = t.accH
  | .vco => s.vco = t.vco
  | .vcc => s.vcc = t.vcc
  | .vce => s.vce = t.vce
  | .gpr r => s.gpr.get r = t.gpr.get r

/-- Two states hold the same in every piece of a list. -/
def sameOn (ps : List Piece) (s t : State) : Prop := ∀ p ∈ ps, samePiece s t p

/-- `t` differs from `s` at most in the pieces listed: every other vector register, accumulator word, flag register and scalar
register is as before, and so are the requests still to be served and the values returned so far. -/
def sameOutside (ps : List Piece) (s t : State) : Prop :=
  (∀ p, p ∉ ps → samePiece s t p) ∧ t.requests = s.requests ∧ t.replies = s.replies

/-- The piece a flag register is. -/
def flagPiece : FlagReg → Piece
  | .vco => .vco
  | .vcc => .vcc
  | .vce => .vce

/-- The piece a flag select names, none for a refused one. -/
def selPieces (sel : Nat) : List Piece := (flagReg? sel).toList.map flagPiece

/-- A vector register named by number, none for a refused one. -/
def vrPieces (r : Nat) : List Piece := if h : r < 32 then [.vr ⟨r, h⟩] else []

/-- What an instruction's outcome depends on (R182). -/
def instrReads : Instr → List Piece
  | .vmulf _ vs vt _ | .vmulu _ vs vt _ | .vmudl _ vs vt _ | .vmudm _ vs vt _ | .vmudn _ vs vt _ | .vmudh _ vs vt _
  | .vcr _ vs vt _ => vrPieces vs ++ vrPieces vt
  | .vmacf _ vs vt _ | .vmacu _ vs vt _ | .vmadl _ vs vt _ | .vmadm _ vs vt _ | .vmadn _ vs vt _ =>
    vrPieces vs ++ vrPieces vt ++ [.accL, .accM, .accH]
  | .vmadh _ vs vt _ => vrPieces vs ++ vrPieces vt ++ [.accM, .accH]
  | .vcl _ vs vt _ => vrPieces vs ++ vrPieces vt ++ [.vco, .vcc, .vce]
  | .ctc2 rt _ => [.gpr rt]
  | .cfc2 _ rd => selPieces rd.val

/-- What an instruction writes (R25, R29, R96, R116, R134, R150, R55). -/
def instrWrites : Instr → List Piece
  | .vmulf vd _ _ _ | .vmulu vd _ _ _ | .vmudl vd _ _ _ | .vmudm vd _ _ _ | .vmudn vd _ _ _ | .vmudh vd _ _ _
  | .vmacf vd _ _ _ | .vmacu vd _ _ _ | .vmadl vd _ _ _ | .vmadm vd _ _ _ | .vmadn vd _ _ _ =>
    vrPieces vd ++ [.accL, .accM, .accH]
  | .vmadh vd _ _ _ => vrPieces vd ++ [.accM, .accH]
  | .vcl vd _ _ _ | .vcr vd _ _ _ => vrPieces vd ++ [.accL, .vco, .vcc, .vce]
  | .ctc2 _ rd => selPieces rd.val
  | .cfc2 rt _ => [.gpr rt]

/-- What a request's outcome depends on (R182). -/
def requestReads : Request → List Piece
  | .word w =>
    match decodeWord w with
    | .ok i => instrReads i
    | .error _ => []
  | .instr i => instrReads i
  | .flagWrite _ _ => []
  | .flagRead sel => selPieces sel
  | .hostWrite _ _ => []
  | .hostRead r => vrPieces r

/-- What a request writes. -/
def requestWrites : Request → List Piece
  | .word w =>
    match decodeWord w with
    | .ok i => instrWrites i
    | .error _ => []
  | .instr i => instrWrites i
  | .flagWrite sel _ => selPieces sel
  | .flagRead _ => []
  | .hostWrite r _ => vrPieces r
  | .hostRead _ => []

/-- Every request of the sequence reads only pieces in `known` or written by an earlier one: none reads a piece that is still
INIT_STATE (R182, R184). -/
def readsDefined (known : List Piece) : List Request → Bool
  | [] => true
  | r :: rest => (requestReads r).all (fun p => decide (p ∈ known)) && readsDefined (requestWrites r ++ known) rest

/-- What is known after a sequence: what was known before and every piece it writes. -/
def knownAfter (known : List Piece) : List Request → List Piece
  | [] => known
  | r :: rest => knownAfter (requestWrites r ++ known) rest

/-- The scalar registers, which are not the block's and are given from outside (R55). -/
def gprPieces : List Piece := (List.finRange 32).map .gpr

/-- Every piece of state there is. -/
def allPieces : List Piece :=
  (List.finRange 32).map .vr ++ [.accL, .accM, .accH, .vco, .vcc, .vce] ++ gprPieces

/-! ## The boot steps (spec/70_reset_and_hazards.md R183) -/

/-- The constructors of the six multiply operations (R90 to R95), which overwrite the whole accumulator. -/
def mulOps : List (Nat → Nat → Nat → Nat → Instr) := [.vmulf, .vmulu, .vmudl, .vmudm, .vmudn, .vmudh]

/-- Step 1 of R183: vector registers written through the host port, in the given order. -/
def bootRegisters (order : List RegIx) (v : RegIx → Lanes) : List Request := order.map fun r => .hostWrite r.val (v r)

/-- Step 2 of R183: `VR[zeroReg]` is made all zero, and a multiply by it defines the accumulator. -/
def bootAccumulator (mk : Nat → Nat → Nat → Nat → Instr) (zeroReg vd vs : RegIx) (e : Fin 16) : List Request :=
  [.hostWrite zeroReg.val (Vector.replicate 8 0#16), .instr (mk vd.val vs.val zeroReg.val e.val)]

/-- Step 3 of R183: the three flag registers by FlagWrite. -/
def bootFlagWrites (f0 f1 f2 : Word) : List Request := [.flagWrite 0 f0, .flagWrite 1 f1, .flagWrite 2 f2]

/-- The six orders of three steps. -/
def stepOrders (a b c : List Request) : List (List Request) :=
  [a ++ b ++ c, a ++ c ++ b, b ++ a ++ c, b ++ c ++ a, c ++ a ++ b, c ++ b ++ a]

/-- After the sequence, every run is the same, next state, returned values and refusal alike, whatever INIT_STATE was (R184). -/
def erasesInitState (boot : List Request) : Prop :=
  ∀ (init init' : InitState) (g : Vector Word 32) (rest : List Request) (n : Nat),
    Sys2Proof.core.run (boot.length + n) { State.ofInit init g with requests := boot ++ rest } =
      Sys2Proof.core.run (boot.length + n) { State.ofInit init' g with requests := boot ++ rest }

/-! ## What the block has returned -/

/-- A returned flag value has nothing above its register's width (R151). -/
def replyFits : Reply → Bool
  | .flag .vco v => decide (v.toNat < 2 ^ 16)
  | .flag .vcc v => decide (v.toNat < 2 ^ 16)
  | .flag .vce v => decide (v.toNat < 2 ^ 8)
  | .vector _ _ => true

/-- Every value returned so far fits its register. -/
def repliesFit (s : State) : Bool := s.replies.all replyFits

end Sys2Proof.Machine
end

