-- ==== Sys2Proof/Certificates/Slice0/Obligations.lean ====
section
/-! DEFINITION. The statements for the provers, each `def Obligations.<Name> : Prop`, and the tables of the spec they compare
the model with. -/

open Sys2Proof Sys2Proof.Machine

namespace Sys2Proof.Machine

/-- Bits `lo+len-1 : lo` of a word, as a number (R11, R53). -/
def fieldAt (w : Word) (lo len : Nat) : Nat := w.toNat / 2 ^ lo % 2 ^ len

theorem fieldAt_lt (w : Word) (lo : Nat) : fieldAt w lo 5 < 32 := Nat.mod_lt _ (by decide)

/-- The function codes of R54 and their operations. -/
def functTable : List (Nat × (Nat → Nat → Nat → Nat → Instr)) :=
  [(0x00, .vmulf), (0x01, .vmulu), (0x04, .vmudl), (0x05, .vmudm), (0x06, .vmudn), (0x07, .vmudh),
   (0x08, .vmacf), (0x09, .vmacu), (0x0C, .vmadl), (0x0D, .vmadm), (0x0E, .vmadn), (0x0F, .vmadh),
   (0x24, .vcl), (0x26, .vcr)]

/-- Every word with this match under the mask of the COP2-VU rows decodes to the operation with its four fields (R53, R54). -/
def RowDecodes (matchWord : Word) (mk : Nat → Nat → Nat → Nat → Instr) : Prop :=
  ∀ w : Word, w &&& 0xFE00003F#32 = matchWord →
    decodeWord w = .ok (mk (fieldAt w 6 5) (fieldAt w 11 5) (fieldAt w 16 5) (fieldAt w 21 4))

/-- The table of R75: row `e`, column `i`. -/
def swizzleTable : List (List Nat) :=
  [[0, 1, 2, 3, 4, 5, 6, 7], [1, 1, 3, 3, 5, 5, 7, 7], [0, 0, 2, 2, 4, 4, 6, 6], [1, 1, 3, 3, 5, 5, 7, 7],
   [0, 0, 0, 0, 4, 4, 4, 4], [1, 1, 1, 1, 5, 5, 5, 5], [2, 2, 2, 2, 6, 6, 6, 6], [3, 3, 3, 3, 7, 7, 7, 7],
   [0, 0, 0, 0, 0, 0, 0, 0], [1, 1, 1, 1, 1, 1, 1, 1], [2, 2, 2, 2, 2, 2, 2, 2], [3, 3, 3, 3, 3, 3, 3, 3],
   [4, 4, 4, 4, 4, 4, 4, 4], [5, 5, 5, 5, 5, 5, 5, 5], [6, 6, 6, 6, 6, 6, 6, 6], [7, 7, 7, 7, 7, 7, 7, 7]]

/-- A word's sign replica: 0xFFFF when bit 15 is set, else 0 (R90, R93). -/
def signFill (m : Lane) : Lane := if m.getLsbD 15 then 0xFFFF#16 else 0x0000#16

/-- The accumulate operations and their multiply partners (R117). -/
def accumulatePartners : List ((Nat → Nat → Nat → Nat → Instr) × (Nat → Nat → Nat → Nat → Instr)) :=
  [(.vmadl, .vmudl), (.vmadm, .vmudm), (.vmadn, .vmudn), (.vmadh, .vmudh)]

/-- The flag registers by select number, with their widths (R31). -/
def flagTable : List (Nat × FlagReg × Nat) := [(0, .vco, 16), (1, .vcc, 16), (2, .vce, 8)]

/-- A flag register's content as a number (R26 to R28). -/
def flagNumber (s : State) : FlagReg → Nat
  | .vco => s.vco.toNat
  | .vcc => s.vcc.toNat
  | .vce => s.vce.toNat

/-- The five flag bits of a lane: carry, not-equal, le, ge, carry extension (R26 to R28). -/
def laneFlags (s : State) (i : LaneIx) : Bool × Bool × Bool × Bool × Bool :=
  (s.vco.getLsbD i.val, s.vco.getLsbD (i.val + 8), s.vcc.getLsbD i.val, s.vcc.getLsbD (i.val + 8), s.vce.getLsbD i.val)

end Sys2Proof.Machine

/-- The words written out in the spec decode to the instructions they stand for (30_encoding.md section 2,
95_test_vectors.md section 2.8). -/
def Obligations.SpecWordsDecode : Prop :=
  decodeWord 0x4A000000#32 = .ok (.vmulf 0 0 0 0) ∧
  decodeWord 0x4BFFFFC0#32 = .ok (.vmulf 31 31 31 15) ∧
  decodeWord 0x4A4208C8#32 = .ok (.vmacf 3 1 2 2) ∧
  decodeWord 0x4B884A8F#32 = .ok (.vmadh 10 9 8 12) ∧
  decodeWord 0x4AFDF7E4#32 = .ok (.vcl 31 30 29 7) ∧
  decodeWord 0x4A0208E6#32 = .ok (.vcr 3 1 2 0) ∧
  decodeWord 0x48C80000#32 = .ok (.ctc2 8 0) ∧
  decodeWord 0x484B0800#32 = .ok (.cfc2 11 1) ∧
  decodeWord 0x4A000010#32 = .error (.functNotInBlock 0x10#6) ∧
  decodeWord 0x4A00003F#32 = .error (.functNotInBlock 0x3F#6) ∧
  decodeWord 0x48C80001#32 = .error .notBlockWord ∧
  decodeWord 0x48880000#32 = .error .notBlockWord ∧
  decodeWord 0x00000000#32 = .error .notBlockWord

/-- Decoding the word of any well-formed instruction gives the instruction back (30_encoding.md R52, 30_encoding.md
R53, 30_encoding.md R54, 30_encoding.md R55). -/
def Obligations.DecodeOfEncodeIsIdentity : Prop :=
  ∀ i : Instr, i.wellFormed = true → decodeWord (encode i) = .ok i

/-- A decoded word has operands in range and encodes back to the same word (30_encoding.md R53, 30_encoding.md R55,
30_encoding.md R60). -/
def Obligations.EncodeOfDecodeIsIdentity : Prop :=
  ∀ (w : Word) (i : Instr), decodeWord w = .ok i → i.wellFormed = true ∧ encode i = w

/-- Every word with a row's match under mask 0xFE00003F decodes to that row's operation, its four fields free (R54).
-/
def Obligations.TableWordsDecodeByMatchAndMask : Prop :=
  ∀ row ∈ functTable, ∀ w : Word, w &&& 0xFE00003F#32 = 0x4A000000#32 ||| BitVec.ofNat 32 row.1 →
    decodeWord w = .ok (row.2 (fieldAt w 6 5) (fieldAt w 11 5) (fieldAt w 16 5) (fieldAt w 21 4))

/-- A COP2-VU word with another funct, and every word of no format of the block, is refused with its reason (R57,
R58). -/
def Obligations.OtherWordsAreRefusedByName : Prop :=
  ∀ (w : Word) (s : State),
    (fieldAt w 25 7 = 37 → (∀ row ∈ functTable, fieldAt w 0 6 ≠ row.1) →
      decodeWord w = .error (.functNotInBlock (w.extractLsb' 0 6)) ∧
      serve (.word w) s = .refused (.functNotInBlock (w.extractLsb' 0 6))) ∧
    (fieldAt w 25 7 ≠ 37 → w &&& 0xFFE007FF#32 ≠ 0x48C00000#32 → w &&& 0xFFE007FF#32 ≠ 0x48400000#32 →
      decodeWord w = .error .notBlockWord ∧ serve (.word w) s = .refused .notBlockWord)

/-- CTC2 and CFC2 words decode by match and mask and drive the flag port with GPR[rt] and select rd (R55). The scalar
file and the list of returned values are the model's own form (log 2, log 8). -/
def Obligations.FlagPortWordsDriveThePort : Prop :=
  ∀ (w : Word) (s : State), let rt : RegIx := ⟨fieldAt w 16 5, fieldAt_lt w 16⟩
    (w &&& 0xFFE007FF#32 = 0x48C00000#32 →
      serve (.word w) s = serve (.flagWrite (fieldAt w 11 5) (s.gpr.get rt)) s ∧
      (3 ≤ fieldAt w 11 5 → serve (.word w) s = .refused (.flagSelInvalid (fieldAt w 11 5)))) ∧
    (w &&& 0xFFE007FF#32 = 0x48400000#32 →
      (∀ reg v, serve (.flagRead (fieldAt w 11 5)) s = .next { s with replies := s.replies ++ [.flag reg v] } →
        serve (.word w) s = .next { s with gpr := s.gpr.set rt.val v rt.isLt }) ∧
      (fieldAt w 11 5 < 3 → ∃ reg v,
        serve (.flagRead (fieldAt w 11 5)) s = .next { s with replies := s.replies ++ [.flag reg v] }) ∧
      (3 ≤ fieldAt w 11 5 → serve (.word w) s = .refused (.flagSelInvalid (fieldAt w 11 5))))

/-- A step whose next request is a word that decodes runs exactly that instruction (30_encoding.md section 2,
20_memory.md R46, 92_eei_decisions.md D1, log 4). -/
def Obligations.StepRunsDecodedInstruction : Prop :=
  (∀ (s : State) (w : Word) (rest : List Request) (i : Instr), s.requests = .word w :: rest → decodeWord w = .ok i →
    step s = exec i { s with requests := rest }) ∧
  (∀ (s : State) (i : Instr), i.wellFormed = true → step (s.withFetchWord 32 (encode i).toNat) = exec i s)

/-- A step takes the oldest request and serves it; with none pending every piece of state is held (20_memory.md R46,
60_exceptions.md R175, log 4, log 11). -/
def Obligations.StepServesOldestRequestOrHolds : Prop :=
  ∀ s : State,
    (∀ r rest, s.requests = r :: rest → step s = serve r { s with requests := rest }) ∧
    (s.requests = [] → step s = .next s)

/-- Running a sequence of requests and then more is running the later ones on the state the earlier ones left
(20_memory.md R46, 44_flag_transfer.md R153, log 4). That requests wait in a list of State is the model's own form
(log 4). -/
def Obligations.RequestsTakeEffectInIssueOrder : Prop :=
  ∀ (s t : State) (a b : List Request) (n : Nat),
    Sys2Proof.core.run a.length { s with requests := a } = .next t →
    Sys2Proof.core.run (a.length + n) { s with requests := a ++ b } = Sys2Proof.core.run n { t with requests := b }

/-- A request refused once is refused again with the same reason, whatever the state (60_exceptions.md R161,
60_exceptions.md R164). -/
def Obligations.RefusalDependsOnRequestAlone : Prop :=
  ∀ (q : Request) (s t : State) (r : Refusal), serve q s = .refused r → serve q t = .refused r

/-- Every valid request completes in every state, and every other request is refused (60_exceptions.md R160,
60_exceptions.md R161). -/
def Obligations.ValidRequestsCompleteOthersAreRefused : Prop :=
  (∀ (q : Request) (s : State),
    (validRequest q = true → ∃ t, serve q s = .next t) ∧ (validRequest q = false → ∃ r, serve q s = .refused r)) ∧
  (∀ _f : Fault, False)

/-- An operation request with an operand out of range is refused, naming the first such field of vd, vs, vt, e (R163).
-/
def Obligations.OperandRefusalNamesFirstField : Prop :=
  ∀ mk ∈ vuOps, ∀ (vd vs vt e : Nat) (s : State),
    (32 ≤ vd → exec (mk vd vs vt e) s = .refused (.indexOutOfRange .vd vd)) ∧
    (vd < 32 → 32 ≤ vs → exec (mk vd vs vt e) s = .refused (.indexOutOfRange .vs vs)) ∧
    (vd < 32 → vs < 32 → 32 ≤ vt → exec (mk vd vs vt e) s = .refused (.indexOutOfRange .vt vt)) ∧
    (vd < 32 → vs < 32 → vt < 32 → 16 ≤ e → exec (mk vd vs vt e) s = .refused (.indexOutOfRange .e e))

/-- A flag-port transaction with a select of 3 or more is refused, raw or through CTC2 and CFC2 (R152). -/
def Obligations.InvalidFlagSelectIsRefused : Prop :=
  (∀ (sel : Nat) (v : Word) (s : State), 3 ≤ sel →
    serve (.flagWrite sel v) s = .refused (.flagSelInvalid sel) ∧
    serve (.flagRead sel) s = .refused (.flagSelInvalid sel)) ∧
  (∀ (rt rd : RegIx) (s : State), 3 ≤ rd.val →
    exec (.ctc2 rt rd) s = .refused (.flagSelInvalid rd.val) ∧
    exec (.cfc2 rt rd) s = .refused (.flagSelInvalid rd.val) ∧
    decodeWord (encode (.ctc2 rt rd)) = .ok (.ctc2 rt rd) ∧
    decodeWord (encode (.cfc2 rt rd)) = .ok (.cfc2 rt rd))

/-- The host register port writes and returns one whole register, touches nothing else, and refuses r of 32 or more
(R41). That what HostReadVR returns stands in a list of State is the model's own form (log 8). -/
def Obligations.HostPortMovesWholeRegisters : Prop :=
  (∀ (r : RegIx) (v : Lanes) (s : State), ∃ t, serve (.hostWrite r.val v) s = .next t ∧
    t.vr.get r = v ∧ sameOutside [.vr r] s t) ∧
  (∀ (r : RegIx) (s : State),
    serve (.hostRead r.val) s = .next { s with replies := s.replies ++ [.vector r (s.vr.get r)] }) ∧
  (∀ (r : Nat) (v : Lanes) (s : State), 32 ≤ r →
    serve (.hostWrite r v) s = .refused (.hostIndexOutOfRange r) ∧
    serve (.hostRead r) s = .refused (.hostIndexOutOfRange r))

/-- From every state whose pending requests are all valid, every number of steps completes, one request a step
(60_exceptions.md R160, 60_exceptions.md R165, 20_memory.md R46, log 4). That requests wait in a list of State is the
model's own form (log 4). -/
def Obligations.ValidQueueRunsToCompletion : Prop :=
  ∀ s : State, allValid s = true → ∀ n : Nat, ∃ t, Sys2Proof.core.run n s = .next t ∧ t.requests = s.requests.drop n

/-- Every step keeps returned flag values within width, and returns just the register read: a flag zero-extended, a
vector register whole, else nothing (44_flag_transfer.md R151, 20_memory.md R41, 10_state.md R26, 10_state.md R27,
10_state.md R28, log 8). That returned values stand in a list of State is the model's own form (log 8). -/
def Obligations.StepKeepsReturnedFlagValuesInWidth : Prop :=
  ∀ s t : State, repliesFit s = true → step s = .next t →
    repliesFit t = true ∧
    (∀ row ∈ flagTable, ∀ rest, s.requests = .flagRead row.1 :: rest →
      t.replies = s.replies ++ [.flag row.2.1 (BitVec.ofNat 32 (flagNumber s row.2.1))]) ∧
    (∀ (r : RegIx) (rest : List Request), s.requests = .hostRead r.val :: rest →
      t.replies = s.replies ++ [.vector r (s.vr.get r)]) ∧
    ((∀ q rest, s.requests = q :: rest → (∀ sel, q ≠ .flagRead sel) ∧ (∀ r, q ≠ .hostRead r)) →
      t.replies = s.replies)

/-- Reset with any INIT_STATE gives exactly that state, nothing pending, nothing returned, and holds it until a
request comes (70_reset_and_hazards.md R180, 10_state.md R34, 60_exceptions.md R175, log 1, log 3, log 4, log 8, log
11). The zeros (log 1, log 3), the two lists (log 4, log 8) and the form of the idle step (log 11) are the model's
own. -/
def Obligations.ResetStartsInInitState : Prop :=
  (∀ (init : InitState) (g : Vector Word 32), let s := State.ofInit init g
    s.vr = init.vr ∧ s.accL = init.accL ∧ s.accM = init.accM ∧ s.accH = init.accH ∧
    s.vco = init.vco ∧ s.vcc = init.vcc ∧ s.vce = init.vce ∧ s.gpr = g ∧
    s.requests = [] ∧ s.replies = [] ∧ repliesFit s = true ∧ allValid s = true ∧ step s = .next s) ∧
  State.reset = State.ofInit InitState.zero (Vector.replicate 32 0#32)

/-- The element swizzle is the table of R75, and under P_SWZ1 = REF code 1 alone becomes the identity (R75). -/
def Obligations.SwizzleFollowsLaneTable : Prop :=
  (∀ (e : Fin 16) (i : LaneIx), (swz .doc e i).val = ((swizzleTable.getD e.val []).getD i.val 8)) ∧
  (∀ i : LaneIx, swz .ref 1 i = i) ∧
  (∀ (e : Fin 16) (i : LaneIx), e ≠ 1 → swz .ref e i = swz .doc e i)

/-- SignedClampMid is v saturated to 16 signed bits, v the signed 32-bit value of (H, M) (R70). -/
def Obligations.SignedClampMidSaturatesToInt16 : Prop :=
  ∀ h m : Lane,
    sint16 (signedClampMid h m) = max (-32768) (min 32767 (sint32 h m)) ∧
    (-32768 ≤ sint32 h m → sint32 h m ≤ 32767 → signedClampMid h m = m) ∧
    (sint32 h m < -32768 → signedClampMid h m = 0x8000#16) ∧
    (32767 < sint32 h m → signedClampMid h m = 0x7FFF#16) ∧
    ((-32768 ≤ sint32 h m ∧ sint32 h m ≤ 32767) ↔ h = if m.msb then 0xFFFF#16 else 0x0000#16)

/-- SignedClampLow returns the low word when the 48-bit value fits 32 signed bits, else 0x0000 or 0xFFFF (R71). -/
def Obligations.SignedClampLowSaturatesOn48Bits : Prop :=
  ∀ h m l : Lane, let a := sint48 (joinAcc h m l)
    (-2 ^ 31 ≤ a → a ≤ 2 ^ 31 - 1 → signedClampLow h m l = l) ∧
    (a < -2 ^ 31 → signedClampLow h m l = 0x0000#16 ∧ signedClampLow h m l = signedClampMid h m ^^^ 0x8000#16) ∧
    (2 ^ 31 - 1 < a → signedClampLow h m l = 0xFFFF#16 ∧ signedClampLow h m l = signedClampMid h m ^^^ 0x8000#16) ∧
    ((-2 ^ 31 ≤ a ∧ a ≤ 2 ^ 31 - 1) ↔ h = if m.msb then 0xFFFF#16 else 0x0000#16)

/-- The three unsigned clamps by the range of v, and VMACU's results never lie in 0x8000..0xFFFE (R72, R73, R74). -/
def Obligations.UnsignedClampsByValueRange : Prop :=
  (∀ h m : Lane, let v := sint32 h m
    unsignedClampMid h m = (if v < 0 then 0x0000#16 else if 0xFFFF < v then 0xFFFF#16 else m) ∧
    unsignedClampMidMACU h m =
      (if v < 0 then 0x0000#16 else if 0xFFFF < v then 0xFFFF#16 else if 0x8000 ≤ v then 0x0000#16 else m) ∧
    ((unsignedClampMidMACU h m).toNat ≤ 0x7FFF ∨ unsignedClampMidMACU h m = 0xFFFF#16) ∧
    unsignedClampRef h m = (if v < 0 then 0x0000#16 else if 0x7FFF < v then 0xFFFF#16 else m)) ∧
  (∀ h m : Lane, vmuluClamp .doc h m = unsignedClampMid h m ∧ vmacuClamp .doc h m = unsignedClampMidMACU h m ∧
    vmuluClamp .ref h m = unsignedClampRef h m ∧ vmacuClamp .ref h m = unsignedClampRef h m)

/-- The four product kinds lie in their stated ranges, and the corrected unsigned products equal SU and US
(40_primitives.md R77, 40_primitives.md R78). -/
def Obligations.ProductKindsRangesAndCorrections : Prop :=
  ∀ s t : Lane,
    (-1073709056 ≤ productSS s t ∧ productSS s t ≤ 1073741824) ∧
    (productSS s t = 1073741824 ↔ s = 0x8000#16 ∧ t = 0x8000#16) ∧
    (-2147450880 ≤ productSU s t ∧ productSU s t ≤ 2147385345) ∧
    (-2147450880 ≤ productUS s t ∧ productUS s t ≤ 2147385345) ∧
    (0 ≤ productUU s t ∧ productUU s t ≤ 4294836225) ∧
    productSUCorrected s t = productSU s t ∧ productUSCorrected s t = productUS s t

/-- AccAdd is exact addition mod 2^48, and equals the word-by-word form with carries low to mid to high
(40_primitives.md R80, 40_primitives.md R81, 40_primitives.md R82). -/
def Obligations.AccAddWrapsAndEqualsWordForm : Prop :=
  (∀ (a : AccLane) (x : Int), ((accAdd a x).toNat : Int) = ((a.toNat : Int) + x) % 2 ^ 48 ∧
    accAdd a x = accAddByWords a x) ∧
  (∀ x : Int, -2 ^ 31 ≤ x → x < 2 ^ 32 → accHigh (toAcc x) = if x < 0 then 0xFFFF#16 else 0x0000#16) ∧
  (∀ a : AccLane, a.toNat = (accHigh a).toNat * 2 ^ 32 + (accMid a).toNat * 2 ^ 16 + (accLow a).toNat)

/-- The carry primitive (new value below addend, unsigned) holds exactly when the two-input sum overflowed 16 bits
(40_primitives.md R81). -/
def Obligations.CarryPrimitiveDetectsOverflow : Prop :=
  (∀ old addend : Lane, carryOut (old + addend) addend = true ↔ 2 ^ 16 ≤ old.toNat + addend.toNat) ∧
  (∀ (m x : Lane) (c : Bool),
    (carryWord (carryOut (m + x) x)).toNat + (carryWord (carryOut (m + x + carryWord c) (carryWord c))).toNat =
      (m.toNat + x.toNat + (carryWord c).toNat) / 2 ^ 16)

/-- Every instruction equals an 8-iteration scalar loop over the lanes, in any order of the lanes (R86). -/
def Obligations.LaneLoopsEqualAllLanesAtOnce : Prop :=
  ∀ (order : List LaneIx), order.Perm (List.finRange 8) →
    (∀ (o : Operands) (s : State),
      (∀ f g, accumulatorLoop order o f g s = accumulatorOp o f g s) ∧
      (∀ fh fm g, accumulatorHighMidLoop order o fh fm g s = accumulatorHighMidOp o fh fm g s) ∧
      (∀ c, compareSelectLoop order o c s = compareSelectOp o c s)) ∧
    ∀ (i : Instr) (s : State), exec i s = execByLoop order i s

/-- VMULF: accumulator (2*SS + 0x8000) mod 2^48 in every lane, result SignedClampMid, with the -32768 corner (R90). -/
def Obligations.VmulfMultipliesRoundsAndClamps : Prop :=
  RowDecodes 0x4A000000#32 .vmulf ∧
  ∀ (s : State) (vd vs vt : RegIx) (e : Fin 16), ∃ t,
    exec (.vmulf vd.val vs.val vt.val e.val) s = .next t ∧ sameOutside [.vr vd, .accL, .accM, .accH] s t ∧
    ∀ i : LaneIx, let x := s.lane vs i; let y := s.lane vt (swz Config.pSwz1 e i)
      ((t.acc i).toNat : Int) = (2 * (sint16 x * sint16 y) + 0x8000) % 2 ^ 48 ∧
      t.lane vd i = signedClampMid (t.accH.get i) (t.accM.get i) ∧
      (x = 0x8000#16 ∧ y = 0x8000#16 → t.acc i = 0x000080008000#48 ∧ t.lane vd i = 0x7FFF#16) ∧
      (¬(x = 0x8000#16 ∧ y = 0x8000#16) →
        t.accH.get i = signFill (t.accM.get i) ∧ t.lane vd i = t.accM.get i)

/-- VMULU: VMULF's accumulator, result by the unsigned clamp that P_UCLAMP names (R91). -/
def Obligations.VmuluMultipliesAndClampsUnsigned : Prop :=
  RowDecodes 0x4A000001#32 .vmulu ∧
  ∀ (s : State) (vd vs vt : RegIx) (e : Fin 16), ∃ t,
    exec (.vmulu vd.val vs.val vt.val e.val) s = .next t ∧ sameOutside [.vr vd, .accL, .accM, .accH] s t ∧
    ∀ i : LaneIx, let x := s.lane vs i; let y := s.lane vt (swz Config.pSwz1 e i)
      ((t.acc i).toNat : Int) = (2 * (sint16 x * sint16 y) + 0x8000) % 2 ^ 48 ∧
      t.lane vd i = (match Config.pUClamp with
        | .doc => unsignedClampMid (t.accH.get i) (t.accM.get i)
        | .ref => unsignedClampRef (t.accH.get i) (t.accM.get i)) ∧
      (Config.pUClamp = .doc →
        (t.accH.get i = 0xFFFF#16 → t.lane vd i = 0x0000#16) ∧
        (t.accH.get i = 0x0000#16 → t.lane vd i = t.accM.get i) ∧
        (t.accH.get i = 0xFFFF#16 ∨ t.accH.get i = 0x0000#16) ∧
        (x = 0x8000#16 ∧ y = 0x8000#16 → t.acc i = 0x000080008000#48 ∧ t.lane vd i = 0x8000#16))

/-- VMUDL: low = floor(UU / 2^16), mid = high = 0, result = low (R92). -/
def Obligations.VmudlTakesUpperHalfOfUnsignedProduct : Prop :=
  RowDecodes 0x4A000004#32 .vmudl ∧
  ∀ (s : State) (vd vs vt : RegIx) (e : Fin 16), ∃ t,
    exec (.vmudl vd.val vs.val vt.val e.val) s = .next t ∧ sameOutside [.vr vd, .accL, .accM, .accH] s t ∧
    ∀ i : LaneIx, let x := s.lane vs i; let y := s.lane vt (swz Config.pSwz1 e i)
      ((t.accL.get i).toNat : Int) = (uint16 x * uint16 y) / 2 ^ 16 ∧
      (t.accL.get i).toNat ≤ 0xFFFE ∧
      t.accM.get i = 0x0000#16 ∧ t.accH.get i = 0x0000#16 ∧ t.lane vd i = t.accL.get i

/-- VMUDM: accumulator SU mod 2^48, high the sign replica of mid, result = mid (R93). -/
def Obligations.VmudmWritesSignedUnsignedProduct : Prop :=
  RowDecodes 0x4A000005#32 .vmudm ∧
  ∀ (s : State) (vd vs vt : RegIx) (e : Fin 16), ∃ t,
    exec (.vmudm vd.val vs.val vt.val e.val) s = .next t ∧ sameOutside [.vr vd, .accL, .accM, .accH] s t ∧
    ∀ i : LaneIx, let x := s.lane vs i; let y := s.lane vt (swz Config.pSwz1 e i)
      ((t.acc i).toNat : Int) = (sint16 x * uint16 y) % 2 ^ 48 ∧
      t.accH.get i = signFill (t.accM.get i) ∧ t.lane vd i = t.accM.get i ∧
      t.lane vd i = signedClampMid (t.accH.get i) (t.accM.get i)

/-- VMUDN: accumulator US mod 2^48, result = low (R94). -/
def Obligations.VmudnWritesUnsignedSignedProduct : Prop :=
  RowDecodes 0x4A000006#32 .vmudn ∧
  ∀ (s : State) (vd vs vt : RegIx) (e : Fin 16), ∃ t,
    exec (.vmudn vd.val vs.val vt.val e.val) s = .next t ∧ sameOutside [.vr vd, .accL, .accM, .accH] s t ∧
    ∀ i : LaneIx, let x := s.lane vs i; let y := s.lane vt (swz Config.pSwz1 e i)
      ((t.acc i).toNat : Int) = (uint16 x * sint16 y) % 2 ^ 48 ∧
      t.accH.get i = signFill (t.accM.get i) ∧ t.lane vd i = t.accL.get i ∧
      t.lane vd i = signedClampLow (t.accH.get i) (t.accM.get i) (t.accL.get i)

/-- VMUDH: low = 0, mid and high the 32-bit SS, result SignedClampMid (R95). -/
def Obligations.VmudhWritesSignedProductHigh : Prop :=
  RowDecodes 0x4A000007#32 .vmudh ∧
  ∀ (s : State) (vd vs vt : RegIx) (e : Fin 16), ∃ t,
    exec (.vmudh vd.val vs.val vt.val e.val) s = .next t ∧ sameOutside [.vr vd, .accL, .accM, .accH] s t ∧
    ∀ i : LaneIx, let x := s.lane vs i; let y := s.lane vt (swz Config.pSwz1 e i)
      t.accL.get i = 0x0000#16 ∧
      ((t.accM.get i).toNat : Int) = (sint16 x * sint16 y) % 2 ^ 16 ∧
      ((t.accH.get i).toNat : Int) = (sint16 x * sint16 y) / 2 ^ 16 % 2 ^ 16 ∧
      ((t.acc i).toNat : Int) = (sint16 x * sint16 y * 2 ^ 16) % 2 ^ 48 ∧
      t.lane vd i = signedClampMid (t.accH.get i) (t.accM.get i) ∧
      sint16 (t.lane vd i) = max (-32768) (min 32767 (sint16 x * sint16 y)) ∧
      (sint16 x * sint16 y = 0 → t.acc i = 0#48)

/-- VMACF: accumulator AccAdd(ACC, 2*SS), result SignedClampMid of the new accumulator (R110). -/
def Obligations.VmacfAccumulatesDoubledProduct : Prop :=
  RowDecodes 0x4A000008#32 .vmacf ∧
  ∀ (s : State) (vd vs vt : RegIx) (e : Fin 16), ∃ t,
    exec (.vmacf vd.val vs.val vt.val e.val) s = .next t ∧ sameOutside [.vr vd, .accL, .accM, .accH] s t ∧
    ∀ i : LaneIx, let x := s.lane vs i; let y := s.lane vt (swz Config.pSwz1 e i)
      ((t.acc i).toNat : Int) = ((s.acc i).toNat + 2 * (sint16 x * sint16 y)) % 2 ^ 48 ∧
      t.lane vd i = signedClampMid (t.accH.get i) (t.accM.get i) ∧
      (s.acc i = 0#48 ∧ x = 0x8000#16 ∧ y = 0x8000#16 → t.acc i = 0x000080000000#48 ∧ t.lane vd i = 0x7FFF#16)

/-- VMACU: VMACF's accumulation, result by the unsigned clamp that P_UCLAMP names (R111). -/
def Obligations.VmacuAccumulatesAndClampsUnsigned : Prop :=
  RowDecodes 0x4A000009#32 .vmacu ∧
  ∀ (s : State) (vd vs vt : RegIx) (e : Fin 16), ∃ t,
    exec (.vmacu vd.val vs.val vt.val e.val) s = .next t ∧ sameOutside [.vr vd, .accL, .accM, .accH] s t ∧
    ∀ i : LaneIx, let x := s.lane vs i; let y := s.lane vt (swz Config.pSwz1 e i)
      ((t.acc i).toNat : Int) = ((s.acc i).toNat + 2 * (sint16 x * sint16 y)) % 2 ^ 48 ∧
      t.lane vd i = (match Config.pUClamp with
        | .doc => unsignedClampMidMACU (t.accH.get i) (t.accM.get i)
        | .ref => unsignedClampRef (t.accH.get i) (t.accM.get i)) ∧
      (Config.pUClamp = .doc →
        (sint48 (t.acc i) < 0 → t.lane vd i = 0x0000#16) ∧
        (2 ^ 32 ≤ sint48 (t.acc i) → t.lane vd i = 0xFFFF#16) ∧
        (2 ^ 31 ≤ sint48 (t.acc i) → sint48 (t.acc i) < 2 ^ 32 → t.lane vd i = 0x0000#16) ∧
        (0 ≤ sint48 (t.acc i) → sint48 (t.acc i) < 2 ^ 31 → t.lane vd i = t.accM.get i))

/-- VMADL: accumulator AccAdd(ACC, floor(UU / 2^16)), result SignedClampLow (R112). -/
def Obligations.VmadlAccumulatesUpperHalf : Prop :=
  RowDecodes 0x4A00000C#32 .vmadl ∧
  ∀ (s : State) (vd vs vt : RegIx) (e : Fin 16), ∃ t,
    exec (.vmadl vd.val vs.val vt.val e.val) s = .next t ∧ sameOutside [.vr vd, .accL, .accM, .accH] s t ∧
    ∀ i : LaneIx, let x := s.lane vs i; let y := s.lane vt (swz Config.pSwz1 e i)
      ((t.acc i).toNat : Int) = ((s.acc i).toNat + (uint16 x * uint16 y) / 2 ^ 16) % 2 ^ 48 ∧
      t.lane vd i = signedClampLow (t.accH.get i) (t.accM.get i) (t.accL.get i)

/-- VMADM: accumulator AccAdd(ACC, SU), result SignedClampMid (R113). -/
def Obligations.VmadmAccumulatesSignedUnsigned : Prop :=
  RowDecodes 0x4A00000D#32 .vmadm ∧
  ∀ (s : State) (vd vs vt : RegIx) (e : Fin 16), ∃ t,
    exec (.vmadm vd.val vs.val vt.val e.val) s = .next t ∧ sameOutside [.vr vd, .accL, .accM, .accH] s t ∧
    ∀ i : LaneIx, let x := s.lane vs i; let y := s.lane vt (swz Config.pSwz1 e i)
      ((t.acc i).toNat : Int) = ((s.acc i).toNat + sint16 x * uint16 y) % 2 ^ 48 ∧
      t.lane vd i = signedClampMid (t.accH.get i) (t.accM.get i)

/-- VMADN: accumulator AccAdd(ACC, US), result SignedClampLow (R114). -/
def Obligations.VmadnAccumulatesUnsignedSigned : Prop :=
  RowDecodes 0x4A00000E#32 .vmadn ∧
  ∀ (s : State) (vd vs vt : RegIx) (e : Fin 16), ∃ t,
    exec (.vmadn vd.val vs.val vt.val e.val) s = .next t ∧ sameOutside [.vr vd, .accL, .accM, .accH] s t ∧
    ∀ i : LaneIx, let x := s.lane vs i; let y := s.lane vt (swz Config.pSwz1 e i)
      ((t.acc i).toNat : Int) = ((s.acc i).toNat + uint16 x * sint16 y) % 2 ^ 48 ∧
      t.lane vd i = signedClampLow (t.accH.get i) (t.accM.get i) (t.accL.get i)

/-- VMADH: SS added into mid and high with carry, low kept, result SignedClampMid (R115). -/
def Obligations.VmadhAccumulatesIntoMidAndHigh : Prop :=
  RowDecodes 0x4A00000F#32 .vmadh ∧
  ∀ (s : State) (vd vs vt : RegIx) (e : Fin 16), ∃ t,
    exec (.vmadh vd.val vs.val vt.val e.val) s = .next t ∧ sameOutside [.vr vd, .accM, .accH] s t ∧
    ∀ i : LaneIx, let x := s.lane vs i; let y := s.lane vt (swz Config.pSwz1 e i)
      ((t.accM.get i).toNat : Int) = ((s.accM.get i).toNat + (sint16 x * sint16 y) % 2 ^ 16) % 2 ^ 16 ∧
      ((t.accH.get i).toNat : Int) = ((s.accH.get i).toNat + (sint16 x * sint16 y) / 2 ^ 16 % 2 ^ 16 +
        ((s.accM.get i).toNat + (sint16 x * sint16 y) % 2 ^ 16) / 2 ^ 16) % 2 ^ 16 ∧
      t.accL.get i = s.accL.get i ∧
      ((t.acc i).toNat : Int) = ((s.acc i).toNat + sint16 x * sint16 y * 2 ^ 16) % 2 ^ 48 ∧
      t.lane vd i = signedClampMid (t.accH.get i) (t.accM.get i)

/-- VMULF's result is the Q1.15 product rounded to nearest, ties up, saturated at 32767 (40_primitives.md R79,
41_multiply.md R90). -/
def Obligations.VmulfResultRoundsToNearestQ15 : Prop :=
  ∀ (s : State) (vd vs vt : RegIx) (e : Fin 16), ∃ t,
    exec (.vmulf vd.val vs.val vt.val e.val) s = .next t ∧
    ∀ i : LaneIx, let p := sint16 (s.lane vs i) * sint16 (s.lane vt (swz Config.pSwz1 e i))
      sint16 (t.lane vd i) = min 32767 ((2 * p + 2 ^ 15) / 2 ^ 16)

/-- From a zero accumulator VMADL, VMADM, VMADN, VMADH do exactly what VMUDL, VMUDM, VMUDN, VMUDH do (R117). -/
def Obligations.AccumulateFromZeroEqualsMultiply : Prop :=
  (∀ (s : State) (vd vs vt e : Nat), (∀ i : LaneIx, s.acc i = 0#48) →
    exec (.vmadl vd vs vt e) s = exec (.vmudl vd vs vt e) s ∧ exec (.vmadm vd vs vt e) s = exec (.vmudm vd vs vt e) s ∧
    exec (.vmadn vd vs vt e) s = exec (.vmudn vd vs vt e) s ∧ exec (.vmadh vd vs vt e) s = exec (.vmudh vd vs vt e) s) ∧
  (∀ pair ∈ accumulatePartners, ∀ (s : State) (vd vs vt : RegIx) (e : Fin 16), ∃ t u,
    exec (pair.1 vd.val vs.val vt.val e.val) s = .next t ∧ exec (pair.2 vd.val vs.val vt.val e.val) s = .next u ∧
    ∀ i : LaneIx, s.acc i = 0#48 → t.acc i = u.acc i ∧ t.lane vd i = u.lane vd i) ∧
  (∀ (s : State) (vd vs vt : RegIx) (e : Fin 16), ∃ t u,
    exec (.vmacf vd.val vs.val vt.val e.val) s = .next t ∧ exec (.vmulf vd.val vs.val vt.val e.val) s = .next u ∧
    ∀ i : LaneIx, s.acc i = 0#48 → u.acc i = t.acc i + 0x8000#48 ∧ u.acc i ≠ t.acc i)

/-- Two VMACF with identical operands from a zero accumulator leave 4*SS mod 2^48 (R118). -/
def Obligations.TwoVmacfFromZeroAddUp : Prop :=
  ∀ (s : State) (vd vs vt : RegIx) (e : Fin 16), vd ≠ vs → vd ≠ vt → ∃ t u,
    exec (.vmacf vd.val vs.val vt.val e.val) s = .next t ∧ exec (.vmacf vd.val vs.val vt.val e.val) t = .next u ∧
    ∀ i : LaneIx, s.acc i = 0#48 →
      ((u.acc i).toNat : Int) = (4 * (sint16 (s.lane vs i) * sint16 (s.lane vt (swz Config.pSwz1 e i)))) % 2 ^ 48

/-- A multiply by an all-zero VR[vt] zeroes accumulator and VR[vd], but VMULF and VMULU leave ACC_L = 0x8000
(70_reset_and_hazards.md R183). -/
def Obligations.ZeroOperandMultiplyDefinesAccumulator : Prop :=
  ∀ (s : State) (vd vs vt : RegIx) (e : Fin 16), (∀ i : LaneIx, s.lane vt i = 0#16) →
    (∀ mk ∈ ([.vmudl, .vmudm, .vmudn, .vmudh] : List (Nat → Nat → Nat → Nat → Instr)), ∃ t,
      exec (mk vd.val vs.val vt.val e.val) s = .next t ∧ ∀ i : LaneIx, t.acc i = 0#48 ∧ t.lane vd i = 0#16) ∧
    (∀ mk ∈ ([.vmulf, .vmulu] : List (Nat → Nat → Nat → Nat → Instr)), ∃ t,
      exec (mk vd.val vs.val vt.val e.val) s = .next t ∧ ∀ i : LaneIx, t.acc i = 0x000000008000#48)

/-- VCL: per-lane le, ge and selected value from VS, VT, VCO, VCC and VCE; VCC rebuilt, VCO and VCE cleared (R131). -/
def Obligations.VclSelectsWithCarryAndUnsignedCompare : Prop :=
  RowDecodes 0x4A000024#32 .vcl ∧
  ∀ (s : State) (vd vs vt : RegIx) (e : Fin 16), ∃ t,
    exec (.vcl vd.val vs.val vt.val e.val) s = .next t ∧ sameOutside [.vr vd, .accL, .vco, .vcc, .vce] s t ∧
    ∀ i : LaneIx, let x := s.lane vs i; let y := s.lane vt (swz Config.pSwz1 e i)
      let carry := s.vco.getLsbD i.val
      let eq := !s.vco.getLsbD (i.val + 8)
      let sum := x.toNat + y.toNat
      let le := if carry && eq then decide (sum = 0) || (s.vce.getLsbD i.val && decide (sum ≤ 0x10000))
        else s.vcc.getLsbD i.val
      let ge := if !carry && eq then decide (y.toNat ≤ x.toNat) else s.vcc.getLsbD (i.val + 8)
      let res := if carry then (if le then -y else x) else (if ge then y else x)
      t.accL.get i = res ∧ t.lane vd i = res ∧
      t.vcc.getLsbD i.val = le ∧ t.vcc.getLsbD (i.val + 8) = ge ∧ t.vco = 0#16 ∧ t.vce = 0#8

/-- VCR: per-lane le, ge and selected value from the signed VS and VT alone; VCC rebuilt, VCO and VCE cleared (R132).
-/
def Obligations.VcrClipsBySignWithoutReadingFlags : Prop :=
  RowDecodes 0x4A000026#32 .vcr ∧
  ∀ (s : State) (vd vs vt : RegIx) (e : Fin 16), ∃ t,
    exec (.vcr vd.val vs.val vt.val e.val) s = .next t ∧ sameOutside [.vr vd, .accL, .vco, .vcc, .vce] s t ∧
    ∀ i : LaneIx, let x := s.lane vs i; let y := s.lane vt (swz Config.pSwz1 e i)
      let a := sint16 x
      let b := sint16 y
      let opposite := decide (a < 0) != decide (b < 0)
      let le := if opposite then decide (a + b < 0) else decide (b < 0)
      let ge := if opposite then decide (b < 0) else decide (0 ≤ a - b)
      let res := if opposite then (if le then ~~~y else x) else (if ge then y else x)
      t.accL.get i = res ∧ t.lane vd i = res ∧
      t.vcc.getLsbD i.val = le ∧ t.vcc.getLsbD (i.val + 8) = ge ∧ t.vco = 0#16 ∧ t.vce = 0#8

/-- For a lane with VT >= 0, VCR clips VS to [-VT-1, VT], le and ge saying which bound was reached (R135). -/
def Obligations.VcrClipsToOnesComplementRange : Prop :=
  ∀ (s : State) (vd vs vt : RegIx) (e : Fin 16), ∃ t,
    exec (.vcr vd.val vs.val vt.val e.val) s = .next t ∧
    ∀ i : LaneIx, let a := sint16 (s.lane vs i); let b := sint16 (s.lane vt (swz Config.pSwz1 e i))
      0 ≤ b →
        (0 ≤ a → sint16 (t.lane vd i) = min a b) ∧ (a < 0 → sint16 (t.lane vd i) = max a (-b - 1)) ∧
        (t.lePrev i = true ↔ a ≤ -b - 1) ∧ (t.gePrev i = true ↔ b ≤ a)

/-- With VCO = 0, VCL gives the unsigned minimum and passes le; it agrees with VCR on non-negative lanes but for le
(R136). -/
def Obligations.VclWithVcoClearIsUnsignedMinimum : Prop :=
  ∀ (s : State) (vd vs vt : RegIx) (e : Fin 16), s.vco = 0#16 → ∃ t u,
    exec (.vcl vd.val vs.val vt.val e.val) s = .next t ∧ exec (.vcr vd.val vs.val vt.val e.val) s = .next u ∧
    ∀ i : LaneIx, let x := s.lane vs i; let y := s.lane vt (swz Config.pSwz1 e i)
      (t.gePrev i = true ↔ y.toNat ≤ x.toNat) ∧ (t.lane vd i).toNat = min x.toNat y.toNat ∧
      t.lane vd i = (if t.gePrev i then y else x) ∧ t.lePrev i = s.lePrev i ∧
      (0 ≤ sint16 x → 0 ≤ sint16 y →
        u.gePrev i = t.gePrev i ∧ u.lane vd i = t.lane vd i ∧ sint16 (u.lane vd i) = min (sint16 x) (sint16 y) ∧
        u.lePrev i = false)

/-- CTC2 and FlagWrite replace the selected flag register whole with the low bits of the value, and nothing else
(R150). That the scalar file GPR is a field of State is the model's own form (log 2). -/
def Obligations.Ctc2ReplacesOneFlagRegisterWhole : Prop :=
  (∀ w : Word, w &&& 0xFFE007FF#32 = 0x48C00000#32 → ∃ rt rd : RegIx,
    rt.val = fieldAt w 16 5 ∧ rd.val = fieldAt w 11 5 ∧ decodeWord w = .ok (.ctc2 rt rd)) ∧
  (∀ (s : State) (rt : RegIx), let v := s.gpr.get rt
    exec (.ctc2 rt 0) s = .next { s with vco := v.setWidth 16 } ∧
    exec (.ctc2 rt 1) s = .next { s with vcc := v.setWidth 16 } ∧
    exec (.ctc2 rt 2) s = .next { s with vce := v.setWidth 8 } ∧
    ∀ rd : RegIx, 3 ≤ rd.val → exec (.ctc2 rt rd) s = .refused (.flagSelInvalid rd.val)) ∧
  (∀ (s : State) (v : Word),
    serve (.flagWrite 0 v) s = .next { s with vco := v.setWidth 16 } ∧
    serve (.flagWrite 1 v) s = .next { s with vcc := v.setWidth 16 } ∧
    serve (.flagWrite 2 v) s = .next { s with vce := v.setWidth 8 } ∧
    ∀ sel, 3 ≤ sel → serve (.flagWrite sel v) s = .refused (.flagSelInvalid sel))

/-- CFC2 and FlagRead return the selected flag register zero-extended and change no state of the block
(44_flag_transfer.md R151, 30_encoding.md R55, log 2, log 8, log 9). What FlagRead returns is R151's; that CFC2 leaves
exactly that value, zero-extended, in GPR[rt] is the model's reading of R55 (log 9), and the scalar file and the list
of returned values are the model's own form (log 2, log 8). -/
def Obligations.Cfc2ReadsOneFlagRegisterZeroExtended : Prop :=
  (∀ w : Word, w &&& 0xFFE007FF#32 = 0x48400000#32 → ∃ rt rd : RegIx,
    rt.val = fieldAt w 16 5 ∧ rd.val = fieldAt w 11 5 ∧ decodeWord w = .ok (.cfc2 rt rd)) ∧
  (∀ (s : State) (rt : RegIx),
    exec (.cfc2 rt 0) s = .next { s with gpr := s.gpr.set rt.val (BitVec.ofNat 32 s.vco.toNat) rt.isLt } ∧
    exec (.cfc2 rt 1) s = .next { s with gpr := s.gpr.set rt.val (BitVec.ofNat 32 s.vcc.toNat) rt.isLt } ∧
    exec (.cfc2 rt 2) s = .next { s with gpr := s.gpr.set rt.val (BitVec.ofNat 32 s.vce.toNat) rt.isLt } ∧
    ∀ rd : RegIx, 3 ≤ rd.val → exec (.cfc2 rt rd) s = .refused (.flagSelInvalid rd.val)) ∧
  (∀ s : State,
    serve (.flagRead 0) s = .next { s with replies := s.replies ++ [.flag .vco (BitVec.ofNat 32 s.vco.toNat)] } ∧
    serve (.flagRead 1) s = .next { s with replies := s.replies ++ [.flag .vcc (BitVec.ofNat 32 s.vcc.toNat)] } ∧
    serve (.flagRead 2) s = .next { s with replies := s.replies ++ [.flag .vce (BitVec.ofNat 32 s.vce.toNat)] } ∧
    ∀ sel, 3 ≤ sel → serve (.flagRead sel) s = .refused (.flagSelInvalid sel))

/-- A FlagWrite followed by a FlagRead of the same select returns the value cut to the register's width
(44_flag_transfer.md R153, 44_flag_transfer.md R154, 30_encoding.md R55, log 2, log 8, log 9). R153 and R154 speak of
FlagWrite and FlagRead; the clause on CTC2 and CFC2 rests on R55 and on the model's reading of it, that CFC2 stores
the returned value zero-extended (log 9), in a scalar file that is the model's own form (log 2). -/
def Obligations.FlagWriteThenReadReturnsValueCut : Prop :=
  (∀ (s : State) (v : Word), ∀ row ∈ flagTable, ∃ t u,
    serve (.flagWrite row.1 v) s = .next t ∧ serve (.flagRead row.1) t = .next u ∧
    u.replies = s.replies ++ [.flag row.2.1 (BitVec.ofNat 32 (v.toNat % 2 ^ row.2.2))]) ∧
  (∀ (s : State) (rt rt' rd : RegIx), ∀ row ∈ flagTable, rd.val = row.1 → ∃ t u,
    exec (.ctc2 rt rd) s = .next t ∧ exec (.cfc2 rt' rd) t = .next u ∧
    u.gpr.get rt' = BitVec.ofNat 32 ((s.gpr.get rt).toNat % 2 ^ row.2.2))

/-- Lane i of every operation's outcome depends only on lane i's operands, accumulator and flag bits (40_primitives.md
R83, 10_state.md R20, 42_accumulate.md R116). -/
def Obligations.LanesAreIndependent : Prop :=
  ∀ mk ∈ vuOps, ∀ (s s' : State) (vd vs vt : RegIx) (e : Fin 16) (i : LaneIx),
    s.lane vs i = s'.lane vs i → s.lane vt (swz Config.pSwz1 e i) = s'.lane vt (swz Config.pSwz1 e i) →
    s.acc i = s'.acc i → laneFlags s i = laneFlags s' i →
    ∃ t t', exec (mk vd.val vs.val vt.val e.val) s = .next t ∧ exec (mk vd.val vs.val vt.val e.val) s' = .next t' ∧
      t.lane vd i = t'.lane vd i ∧ t.acc i = t'.acc i ∧ laneFlags t i = laneFlags t' i

/-- A request that completes changes only the pieces its row of the read and write tables names (10_state.md R22,
10_state.md R25, 10_state.md R29, 42_accumulate.md R116, 43_compare_select.md R134). -/
def Obligations.RequestsWriteOnlyTheirDestinations : Prop :=
  ∀ (q : Request) (s t : State), serve q s = .next t →
    (∀ p, p ∉ requestWrites q → samePiece s t p) ∧ t.requests = s.requests ∧
    ∃ rs : List Reply, t.replies = s.replies ++ rs ∧ rs.length ≤ 1

/-- A request's outcome depends only on the pieces of state its row of the read-before-write table lists (R182). -/
def Obligations.OutcomeDependsOnlyOnPiecesRead : Prop :=
  (∀ (q : Request) (s s' : State), sameOn (requestReads q) s s' →
    (∃ t t', serve q s = .next t ∧ serve q s' = .next t' ∧ sameOn (requestWrites q) t t' ∧
      ∃ rs : List Reply, t.replies = s.replies ++ rs ∧ t'.replies = s'.replies ++ rs) ∨
    (∃ r, serve q s = .refused r ∧ serve q s' = .refused r)) ∧
  (∀ mk ∈ vuOps, ∀ (s s' : State) (vd vs vt : RegIx) (e : Fin 16),
    s.vr.get vs = s'.vr.get vs →
    (∀ i : LaneIx, s.lane vt (swz Config.pSwz1 e i) = s'.lane vt (swz Config.pSwz1 e i)) →
    (∀ p ∈ instrReads (mk vd.val vs.val vt.val e.val), (∀ r, p ≠ .vr r) → samePiece s s' p) →
    ∃ t t', exec (mk vd.val vs.val vt.val e.val) s = .next t ∧ exec (mk vd.val vs.val vt.val e.val) s' = .next t' ∧
      sameOn (instrWrites (mk vd.val vs.val vt.val e.val)) t t')

/-- A program that reads only what it wrote gives the same results from every INIT_STATE (70_reset_and_hazards.md
R182, 70_reset_and_hazards.md R184, log 4, log 8). The lists of requests and of returned values are the model's own
form (log 4, log 8). -/
def Obligations.DefinedProgramsIgnoreInitState : Prop :=
  ∀ (init init' : InitState) (g : Vector Word 32) (qs : List Request),
    qs.all validRequest = true → readsDefined gprPieces qs = true →
    ∃ t t', Sys2Proof.core.run qs.length { State.ofInit init g with requests := qs } = .next t ∧
      Sys2Proof.core.run qs.length { State.ofInit init' g with requests := qs } = .next t' ∧
      t.replies = t'.replies ∧ sameOn (knownAfter gprPieces qs) t t'

/-- Any boot that defines every piece erases INIT_STATE; R183's three steps do in every order, with FlagWrites or,
after the registers, one VCR (70_reset_and_hazards.md R182, 70_reset_and_hazards.md R183, 70_reset_and_hazards.md
R184, log 4, log 8). The lists of requests and of returned values are the model's own form (log 4, log 8). -/
def Obligations.BootSequenceErasesInitState : Prop :=
  (∀ boot : List Request, boot.all validRequest = true → readsDefined gprPieces boot = true →
    (∀ p ∈ allPieces, p ∈ knownAfter gprPieces boot) → erasesInitState boot) ∧
  (∀ (order : List RegIx), order.Perm (List.finRange 32) → ∀ mk ∈ mulOps,
    ∀ (v : RegIx → Lanes) (zeroReg vd vs : RegIx) (e : Fin 16),
      let registers := bootRegisters order v
      let accumulator := bootAccumulator mk zeroReg vd vs e
      (∀ (f0 f1 f2 : Word) (flags : List Request), flags.Perm (bootFlagWrites f0 f1 f2) →
        ∀ boot ∈ stepOrders registers accumulator flags, erasesInitState boot) ∧
      (∀ (vd' vs' vt' : RegIx) (e' : Fin 16), let vcr : List Request := [.instr (.vcr vd'.val vs'.val vt'.val e'.val)]
        ∀ boot ∈ [registers ++ accumulator ++ vcr, registers ++ vcr ++ accumulator, accumulator ++ registers ++ vcr],
          erasesInitState boot))

/-- A register's 128-bit image has lane 0 in the top 16 bits, big-endian bytes from the lowest address, and loses
nothing (R42). -/
def Obligations.RegisterImageIsBigEndianLanes : Prop :=
  (∀ (v : Lanes) (i : LaneIx),
    (laneImage v).extractLsb' (112 - 16 * i.val) 16 = v.get i ∧
    imageByte v ⟨2 * i.val, by omega⟩ = (v.get i).extractLsb' 8 8 ∧
    imageByte v ⟨2 * i.val + 1, by omega⟩ = (v.get i).extractLsb' 0 8) ∧
  (∀ v : Lanes, lanesOfImage (laneImage v) = v) ∧ (∀ x : BitVec 128, laneImage (lanesOfImage x) = x)

/-- From every state whose pending requests are all valid, a step completes and the pending requests stay all valid
(60_exceptions.md R160, 60_exceptions.md R161, 20_memory.md R46, log 4). That requests wait in a list of State is the
model's own form (log 4). -/
def Obligations.StepKeepsQueueValid : Prop :=
  ∀ s : State, allValid s = true →
    ∃ t, step s = .next t ∧ allValid t = true ∧ t.requests = s.requests.tail

/-- Two states that agree on known pieces, among them all the next request reads, still agree after a step on these
and on all it writes (70_reset_and_hazards.md R182, 70_reset_and_hazards.md R184, log 4, log 8). The lists of requests
and of returned values are the model's own form (log 4, log 8). -/
def Obligations.StepKeepsAgreementOnKnownPieces : Prop :=
  ∀ (known : List Piece) (q : Request) (rest : List Request) (s s' : State),
    s.requests = q :: rest → s'.requests = q :: rest → s.replies = s'.replies →
    validRequest q = true → (∀ p ∈ requestReads q, p ∈ known) → sameOn known s s' →
    ∃ t t', step s = .next t ∧ step s' = .next t' ∧ sameOn (requestWrites q ++ known) t t' ∧
      t.requests = rest ∧ t'.requests = rest ∧ t.replies = t'.replies
end

