-- ==== Sys2Proof/Laws/Clamp.lean ====
section
/-! SUPPORT. The signed readings behind the clamps (spec/40_primitives.md R70 to R74): the word tests as ranges of
`v = sint32(H, M)`. -/

namespace Sys2Proof.Machine

theorem sint16_eq (x : Lane) : sint16 x = if x.msb then (x.toNat : Int) - 65536 else x.toNat := by
  have := x.isLt
  simp only [sint16, BitVec.toInt_eq_msb_cond]
  rfl

theorem uint16_eq (x : Lane) : uint16 x = x.toNat := rfl

theorem msb_iff (x : Lane) : x.msb = true ↔ 32768 ≤ x.toNat := by
  rw [BitVec.msb_eq_decide]
  simp

theorem sint16_range (x : Lane) : -32768 ≤ sint16 x ∧ sint16 x ≤ 32767 := by
  have hx := x.isLt
  have hm := msb_iff x
  rw [sint16_eq]
  split <;> simp_all <;> omega

theorem uint16_range (x : Lane) : 0 ≤ uint16 x ∧ uint16 x ≤ 65535 := by
  have hx := x.isLt
  rw [uint16_eq]
  omega

/-- `v = sint16(H)·2^16 + M` (R70). -/
theorem sint32_eq (h m : Lane) : sint32 h m = sint16 h * 65536 + m.toNat := by
  have hm := m.isLt
  have hh := h.isLt
  have e : (h ++ m).toNat = h.toNat * 65536 + m.toNat := by
    rw [BitVec.toNat_append, ← Nat.shiftLeft_add_eq_or_of_lt hm, Nat.shiftLeft_eq]
  have hb := msb_iff h
  rw [sint16_eq]
  unfold sint32
  rw [BitVec.toInt_eq_toNat_cond, e]
  split <;> split <;> simp_all <;> omega

/-- The test of R70 and R71 as a range of `v`. -/
theorem midFits_iff (h m : Lane) : midFits h m = true ↔ -32768 ≤ sint32 h m ∧ sint32 h m ≤ 32767 := by
  have hh := h.isLt
  have hm := m.isLt
  have b1 := msb_iff h
  have b2 := msb_iff m
  rw [sint32_eq, sint16_eq]
  simp only [midFits, beq_iff_eq, ← BitVec.toNat_inj]
  split <;> split <;> simp_all <;> omega

/-- The sign of `v` is bit 15 of `H`. -/
theorem sint32_neg_iff (h m : Lane) : h.msb = true ↔ sint32 h m < 0 := by
  have hh := h.isLt
  have hm := m.isLt
  have b1 := msb_iff h
  rw [sint32_eq, sint16_eq]
  split <;> simp_all <;> omega

end Sys2Proof.Machine
end

