-- ==== Sys2Proof/Laws/Decode.lean ====
section
/-! SUPPORT. The fields of a word the encoder builds, and the words the masks of spec/30_encoding.md R54 and R55 select. -/

namespace Sys2Proof

/-- A COP2-VU word as a number (R52). -/
theorem vuWord_toNat (funct : BitVec 6) (vd vs vt e : Nat) :
    (vuWord funct vd vs vt e).toNat =
      37 * 2 ^ 25 + e % 16 * 2 ^ 21 + vt % 32 * 2 ^ 16 + vs % 32 * 2 ^ 11 + vd % 32 * 2 ^ 6 + funct.toNat := by
  have hf := funct.isLt
  have h : (vuWord funct vd vs vt e).toNat = (cop2VuTag ++ BitVec.ofNat 4 e ++ BitVec.ofNat 5 vt ++ BitVec.ofNat 5 vs ++
    BitVec.ofNat 5 vd ++ funct).toNat := rfl
  rw [h]
  simp only [BitVec.toNat_append]
  rw [← Nat.shiftLeft_add_eq_or_of_lt (BitVec.isLt (BitVec.ofNat 4 e)),
    ← Nat.shiftLeft_add_eq_or_of_lt (BitVec.isLt (BitVec.ofNat 5 vt)),
    ← Nat.shiftLeft_add_eq_or_of_lt (BitVec.isLt (BitVec.ofNat 5 vs)),
    ← Nat.shiftLeft_add_eq_or_of_lt (BitVec.isLt (BitVec.ofNat 5 vd)),
    ← Nat.shiftLeft_add_eq_or_of_lt hf]
  simp only [Nat.shiftLeft_eq, BitVec.toNat_ofNat, cop2VuTag]
  omega

/-- A flag-port word as a number (R55). -/
theorem moveWord_toNat (tag : BitVec 11) (rt rd : RegIx) :
    (moveWord tag rt rd).toNat = tag.toNat * 2 ^ 21 + rt.val * 2 ^ 16 + rd.val * 2 ^ 11 := by
  have h : (moveWord tag rt rd).toNat = (tag ++ BitVec.ofNat 5 rt.val ++ BitVec.ofNat 5 rd.val ++ 0#11).toNat := rfl
  rw [h]
  simp only [BitVec.toNat_append]
  rw [← Nat.shiftLeft_add_eq_or_of_lt (BitVec.isLt (BitVec.ofNat 5 rt.val)),
    ← Nat.shiftLeft_add_eq_or_of_lt (BitVec.isLt (BitVec.ofNat 5 rd.val)),
    ← Nat.shiftLeft_add_eq_or_of_lt (BitVec.isLt 0#11)]
  simp only [Nat.shiftLeft_eq, BitVec.toNat_ofNat]
  omega

/-- A field of a word as a number (R11, R53). -/
theorem extractLsb'_toNat_div (w : Word) (lo len : Nat) : (w.extractLsb' lo len).toNat = w.toNat / 2 ^ lo % 2 ^ len := by
  simp [BitVec.extractLsb'_toNat, Nat.shiftRight_eq_div_pow]

theorem regField_val (w : Word) (lo : Nat) : (regField w lo).val = w.toNat / 2 ^ lo % 32 :=
  extractLsb'_toNat_div w lo 5

theorem elementField_eq (w : Word) : elementField w = w.toNat / 2 ^ 21 % 16 := extractLsb'_toNat_div w 21 4

/-- The decoder on a word with the COP2-VU tag and a mapped function code (R53, R54). -/
theorem decodeWord_vu {w : Word} {funct : BitVec 6} {mk : Nat → Nat → Nat → Nat → Instr}
    (hf : functMap funct = some mk) (h : w.toNat / 2 ^ 25 = 37) (h6 : w.toNat % 64 = funct.toNat) :
    decodeWord w = .ok (mk (regField w 6).val (regField w 11).val (regField w 16).val (elementField w)) := by
  have e1 : w.extractLsb' 25 7 = cop2VuTag := by
    apply BitVec.eq_of_toNat_eq
    rw [extractLsb'_toNat_div, h]
    rfl
  have e2 : w.extractLsb' 0 6 = funct := by
    apply BitVec.eq_of_toNat_eq
    rw [extractLsb'_toNat_div]
    simpa using h6
  simp [decodeWord, e1, e2, hf]

/-- The decoder on a CTC2 word (R55). -/
theorem decodeWord_ctc2 {w : Word} (h : w.toNat / 2 ^ 21 = 582) (h0 : w.toNat % 2 ^ 11 = 0) :
    decodeWord w = .ok (.ctc2 (regField w 16) (regField w 11)) := by
  have e1 : w.extractLsb' 25 7 ≠ cop2VuTag := by
    intro e
    have := congrArg BitVec.toNat e
    rw [extractLsb'_toNat_div] at this
    simp only [cop2VuTag, BitVec.toNat_ofNat] at this
    omega
  have e2 : w.extractLsb' 0 11 = 0#11 := by
    apply BitVec.eq_of_toNat_eq
    rw [extractLsb'_toNat_div]
    simpa using h0
  have e3 : w.extractLsb' 21 11 = ctc2Tag := by
    apply BitVec.eq_of_toNat_eq
    rw [extractLsb'_toNat_div, h]
    rfl
  simp [decodeWord, e1, e2, e3]

/-- The decoder on a CFC2 word (R55). -/
theorem decodeWord_cfc2 {w : Word} (h : w.toNat / 2 ^ 21 = 578) (h0 : w.toNat % 2 ^ 11 = 0) :
    decodeWord w = .ok (.cfc2 (regField w 16) (regField w 11)) := by
  have e1 : w.extractLsb' 25 7 ≠ cop2VuTag := by
    intro e
    have := congrArg BitVec.toNat e
    rw [extractLsb'_toNat_div] at this
    simp only [cop2VuTag, BitVec.toNat_ofNat] at this
    omega
  have e2 : w.extractLsb' 0 11 = 0#11 := by
    apply BitVec.eq_of_toNat_eq
    rw [extractLsb'_toNat_div]
    simpa using h0
  have e3 : w.extractLsb' 21 11 = cfc2Tag := by
    apply BitVec.eq_of_toNat_eq
    rw [extractLsb'_toNat_div, h]
    rfl
  have e4 : cfc2Tag ≠ ctc2Tag := by decide
  simp [decodeWord, e1, e2, e3, e4]

/-- A field of a masked word where the mask's field is all ones. -/
theorem maskedField_ones (w m : Word) (lo len : Nat) (h : m.extractLsb' lo len = BitVec.allOnes len) :
    (w &&& m).toNat / 2 ^ lo % 2 ^ len = w.toNat / 2 ^ lo % 2 ^ len := by
  rw [← extractLsb'_toNat_div, ← extractLsb'_toNat_div, BitVec.extractLsb'_and, h, BitVec.and_allOnes]

/-- A field of a masked word where the mask's field is zero. -/
theorem maskedField_zero (w m : Word) (lo len : Nat) (h : m.extractLsb' lo len = 0#len) :
    (w &&& m).toNat / 2 ^ lo % 2 ^ len = 0 := by
  rw [← extractLsb'_toNat_div, BitVec.extractLsb'_and, h, BitVec.and_zero]
  rfl

/-- The words a COP2-VU row's match and mask select: bits 31:25 and 5:0 fixed (R54). -/
theorem vuMask_iff (w : Word) (f : Nat) (hf : f < 64) :
    w &&& 0xFE00003F#32 = BitVec.ofNat 32 (0x4A000000 + f) ↔ w.toNat / 2 ^ 25 = 37 ∧ w.toNat % 64 = f := by
  have h1 := maskedField_ones w 0xFE00003F#32 25 7 (by decide)
  have h2 := maskedField_zero w 0xFE00003F#32 6 19 (by decide)
  have h3 := maskedField_ones w 0xFE00003F#32 0 6 (by decide)
  have hw := w.isLt
  have hx := (w &&& 0xFE00003F#32).isLt
  rw [← BitVec.toNat_inj, BitVec.toNat_ofNat]
  generalize (w &&& 0xFE00003F#32).toNat = x at *
  omega

/-- The words a flag-port row's match and mask select: bits 31:21 fixed and bits 10:0 zero (R55). -/
theorem moveMask_iff (w : Word) (tag : Nat) (ht : tag < 2 ^ 11) :
    w &&& 0xFFE007FF#32 = BitVec.ofNat 32 (tag * 2 ^ 21) ↔ w.toNat / 2 ^ 21 = tag ∧ w.toNat % 2 ^ 11 = 0 := by
  have h1 := maskedField_ones w 0xFFE007FF#32 21 11 (by decide)
  have h2 := maskedField_zero w 0xFFE007FF#32 11 10 (by decide)
  have h3 := maskedField_ones w 0xFFE007FF#32 0 11 (by decide)
  have hw := w.isLt
  have hx := (w &&& 0xFFE007FF#32).isLt
  rw [← BitVec.toNat_inj, BitVec.toNat_ofNat]
  generalize (w &&& 0xFFE007FF#32).toNat = x at *
  omega

end Sys2Proof
end

