-- ==== Sys2Proof/Laws/State.lean ====
section
/-! SUPPORT. One lemma per field per update of the state, each true by definition, so that no later proof unfolds a record
update. -/

namespace Sys2Proof.Machine

section writeVR

@[simp] theorem State.writeVR_vr (s : State) (r : RegIx) (v : Lanes) : (s.writeVR r v).vr = s.vr.set r.val v r.isLt := rfl
@[simp] theorem State.writeVR_accL (s : State) (r : RegIx) (v : Lanes) : (s.writeVR r v).accL = s.accL := rfl
@[simp] theorem State.writeVR_accM (s : State) (r : RegIx) (v : Lanes) : (s.writeVR r v).accM = s.accM := rfl
@[simp] theorem State.writeVR_accH (s : State) (r : RegIx) (v : Lanes) : (s.writeVR r v).accH = s.accH := rfl
@[simp] theorem State.writeVR_vco (s : State) (r : RegIx) (v : Lanes) : (s.writeVR r v).vco = s.vco := rfl
@[simp] theorem State.writeVR_vcc (s : State) (r : RegIx) (v : Lanes) : (s.writeVR r v).vcc = s.vcc := rfl
@[simp] theorem State.writeVR_vce (s : State) (r : RegIx) (v : Lanes) : (s.writeVR r v).vce = s.vce := rfl
@[simp] theorem State.writeVR_gpr (s : State) (r : RegIx) (v : Lanes) : (s.writeVR r v).gpr = s.gpr := rfl
@[simp] theorem State.writeVR_requests (s : State) (r : RegIx) (v : Lanes) : (s.writeVR r v).requests = s.requests := rfl
@[simp] theorem State.writeVR_replies (s : State) (r : RegIx) (v : Lanes) : (s.writeVR r v).replies = s.replies := rfl

end writeVR

section writeAcc

@[simp] theorem State.writeAcc_vr (s : State) (a : LaneIx → AccLane) : (s.writeAcc a).vr = s.vr := rfl
@[simp] theorem State.writeAcc_accL (s : State) (a : LaneIx → AccLane) : (s.writeAcc a).accL = laneMap fun i => accLow (a i) := rfl
@[simp] theorem State.writeAcc_accM (s : State) (a : LaneIx → AccLane) : (s.writeAcc a).accM = laneMap fun i => accMid (a i) := rfl
@[simp] theorem State.writeAcc_accH (s : State) (a : LaneIx → AccLane) : (s.writeAcc a).accH = laneMap fun i => accHigh (a i) := rfl
@[simp] theorem State.writeAcc_vco (s : State) (a : LaneIx → AccLane) : (s.writeAcc a).vco = s.vco := rfl
@[simp] theorem State.writeAcc_vcc (s : State) (a : LaneIx → AccLane) : (s.writeAcc a).vcc = s.vcc := rfl
@[simp] theorem State.writeAcc_vce (s : State) (a : LaneIx → AccLane) : (s.writeAcc a).vce = s.vce := rfl
@[simp] theorem State.writeAcc_gpr (s : State) (a : LaneIx → AccLane) : (s.writeAcc a).gpr = s.gpr := rfl
@[simp] theorem State.writeAcc_requests (s : State) (a : LaneIx → AccLane) : (s.writeAcc a).requests = s.requests := rfl
@[simp] theorem State.writeAcc_replies (s : State) (a : LaneIx → AccLane) : (s.writeAcc a).replies = s.replies := rfl

end writeAcc

section writeAccHighMid

@[simp] theorem State.writeAccHighMid_vr (s : State) (h m : LaneIx → Lane) : (s.writeAccHighMid h m).vr = s.vr := rfl
@[simp] theorem State.writeAccHighMid_accL (s : State) (h m : LaneIx → Lane) : (s.writeAccHighMid h m).accL = s.accL := rfl
@[simp] theorem State.writeAccHighMid_accM (s : State) (h m : LaneIx → Lane) : (s.writeAccHighMid h m).accM = laneMap m := rfl
@[simp] theorem State.writeAccHighMid_accH (s : State) (h m : LaneIx → Lane) : (s.writeAccHighMid h m).accH = laneMap h := rfl
@[simp] theorem State.writeAccHighMid_vco (s : State) (h m : LaneIx → Lane) : (s.writeAccHighMid h m).vco = s.vco := rfl
@[simp] theorem State.writeAccHighMid_vcc (s : State) (h m : LaneIx → Lane) : (s.writeAccHighMid h m).vcc = s.vcc := rfl
@[simp] theorem State.writeAccHighMid_vce (s : State) (h m : LaneIx → Lane) : (s.writeAccHighMid h m).vce = s.vce := rfl
@[simp] theorem State.writeAccHighMid_gpr (s : State) (h m : LaneIx → Lane) : (s.writeAccHighMid h m).gpr = s.gpr := rfl
@[simp] theorem State.writeAccHighMid_requests (s : State) (h m : LaneIx → Lane) : (s.writeAccHighMid h m).requests = s.requests := rfl
@[simp] theorem State.writeAccHighMid_replies (s : State) (h m : LaneIx → Lane) : (s.writeAccHighMid h m).replies = s.replies := rfl

end writeAccHighMid

section writeAccLow

@[simp] theorem State.writeAccLow_vr (s : State) (l : LaneIx → Lane) : (s.writeAccLow l).vr = s.vr := rfl
@[simp] theorem State.writeAccLow_accL (s : State) (l : LaneIx → Lane) : (s.writeAccLow l).accL = laneMap l := rfl
@[simp] theorem State.writeAccLow_accM (s : State) (l : LaneIx → Lane) : (s.writeAccLow l).accM = s.accM := rfl
@[simp] theorem State.writeAccLow_accH (s : State) (l : LaneIx → Lane) : (s.writeAccLow l).accH = s.accH := rfl
@[simp] theorem State.writeAccLow_vco (s : State) (l : LaneIx → Lane) : (s.writeAccLow l).vco = s.vco := rfl
@[simp] theorem State.writeAccLow_vcc (s : State) (l : LaneIx → Lane) : (s.writeAccLow l).vcc = s.vcc := rfl
@[simp] theorem State.writeAccLow_vce (s : State) (l : LaneIx → Lane) : (s.writeAccLow l).vce = s.vce := rfl
@[simp] theorem State.writeAccLow_gpr (s : State) (l : LaneIx → Lane) : (s.writeAccLow l).gpr = s.gpr := rfl
@[simp] theorem State.writeAccLow_requests (s : State) (l : LaneIx → Lane) : (s.writeAccLow l).requests = s.requests := rfl
@[simp] theorem State.writeAccLow_replies (s : State) (l : LaneIx → Lane) : (s.writeAccLow l).replies = s.replies := rfl

end writeAccLow

section writeGPR

@[simp] theorem State.writeGPR_vr (s : State) (r : RegIx) (v : Word) : (s.writeGPR r v).vr = s.vr := rfl
@[simp] theorem State.writeGPR_accL (s : State) (r : RegIx) (v : Word) : (s.writeGPR r v).accL = s.accL := rfl
@[simp] theorem State.writeGPR_accM (s : State) (r : RegIx) (v : Word) : (s.writeGPR r v).accM = s.accM := rfl
@[simp] theorem State.writeGPR_accH (s : State) (r : RegIx) (v : Word) : (s.writeGPR r v).accH = s.accH := rfl
@[simp] theorem State.writeGPR_vco (s : State) (r : RegIx) (v : Word) : (s.writeGPR r v).vco = s.vco := rfl
@[simp] theorem State.writeGPR_vcc (s : State) (r : RegIx) (v : Word) : (s.writeGPR r v).vcc = s.vcc := rfl
@[simp] theorem State.writeGPR_vce (s : State) (r : RegIx) (v : Word) : (s.writeGPR r v).vce = s.vce := rfl
@[simp] theorem State.writeGPR_gpr (s : State) (r : RegIx) (v : Word) : (s.writeGPR r v).gpr = s.gpr.set r.val v r.isLt := rfl
@[simp] theorem State.writeGPR_requests (s : State) (r : RegIx) (v : Word) : (s.writeGPR r v).requests = s.requests := rfl
@[simp] theorem State.writeGPR_replies (s : State) (r : RegIx) (v : Word) : (s.writeGPR r v).replies = s.replies := rfl

end writeGPR

section reply

@[simp] theorem State.reply_vr (s : State) (r : Reply) : (s.reply r).vr = s.vr := rfl
@[simp] theorem State.reply_accL (s : State) (r : Reply) : (s.reply r).accL = s.accL := rfl
@[simp] theorem State.reply_accM (s : State) (r : Reply) : (s.reply r).accM = s.accM := rfl
@[simp] theorem State.reply_accH (s : State) (r : Reply) : (s.reply r).accH = s.accH := rfl
@[simp] theorem State.reply_vco (s : State) (r : Reply) : (s.reply r).vco = s.vco := rfl
@[simp] theorem State.reply_vcc (s : State) (r : Reply) : (s.reply r).vcc = s.vcc := rfl
@[simp] theorem State.reply_vce (s : State) (r : Reply) : (s.reply r).vce = s.vce := rfl
@[simp] theorem State.reply_gpr (s : State) (r : Reply) : (s.reply r).gpr = s.gpr := rfl
@[simp] theorem State.reply_requests (s : State) (r : Reply) : (s.reply r).requests = s.requests := rfl
@[simp] theorem State.reply_replies (s : State) (r : Reply) : (s.reply r).replies = s.replies ++ [r] := rfl

end reply

section afterRefusal

@[simp] theorem State.afterRefusal_vr (s : State) : (s.afterRefusal).vr = s.vr := rfl
@[simp] theorem State.afterRefusal_accL (s : State) : (s.afterRefusal).accL = s.accL := rfl
@[simp] theorem State.afterRefusal_accM (s : State) : (s.afterRefusal).accM = s.accM := rfl
@[simp] theorem State.afterRefusal_accH (s : State) : (s.afterRefusal).accH = s.accH := rfl
@[simp] theorem State.afterRefusal_vco (s : State) : (s.afterRefusal).vco = s.vco := rfl
@[simp] theorem State.afterRefusal_vcc (s : State) : (s.afterRefusal).vcc = s.vcc := rfl
@[simp] theorem State.afterRefusal_vce (s : State) : (s.afterRefusal).vce = s.vce := rfl
@[simp] theorem State.afterRefusal_gpr (s : State) : (s.afterRefusal).gpr = s.gpr := rfl
@[simp] theorem State.afterRefusal_requests (s : State) : (s.afterRefusal).requests = s.requests.tail := rfl
@[simp] theorem State.afterRefusal_replies (s : State) : (s.afterRefusal).replies = s.replies := rfl

end afterRefusal

section withFetchWord

@[simp] theorem State.withFetchWord_vr (s : State) (nbits w : Nat) : (s.withFetchWord nbits w).vr = s.vr := rfl
@[simp] theorem State.withFetchWord_accL (s : State) (nbits w : Nat) : (s.withFetchWord nbits w).accL = s.accL := rfl
@[simp] theorem State.withFetchWord_accM (s : State) (nbits w : Nat) : (s.withFetchWord nbits w).accM = s.accM := rfl
@[simp] theorem State.withFetchWord_accH (s : State) (nbits w : Nat) : (s.withFetchWord nbits w).accH = s.accH := rfl
@[simp] theorem State.withFetchWord_vco (s : State) (nbits w : Nat) : (s.withFetchWord nbits w).vco = s.vco := rfl
@[simp] theorem State.withFetchWord_vcc (s : State) (nbits w : Nat) : (s.withFetchWord nbits w).vcc = s.vcc := rfl
@[simp] theorem State.withFetchWord_vce (s : State) (nbits w : Nat) : (s.withFetchWord nbits w).vce = s.vce := rfl
@[simp] theorem State.withFetchWord_gpr (s : State) (nbits w : Nat) : (s.withFetchWord nbits w).gpr = s.gpr := rfl
@[simp] theorem State.withFetchWord_requests (s : State) (nbits w : Nat) : (s.withFetchWord nbits w).requests = .word (BitVec.ofNat 32 (w % 2 ^ nbits)) :: s.requests := rfl
@[simp] theorem State.withFetchWord_replies (s : State) (nbits w : Nat) : (s.withFetchWord nbits w).replies = s.replies := rfl

end withFetchWord

section writeFlag

@[simp] theorem State.writeFlag_vr (s : State) (reg : FlagReg) (v : Word) : (s.writeFlag reg v).vr = s.vr := by
  cases reg <;> rfl
@[simp] theorem State.writeFlag_accL (s : State) (reg : FlagReg) (v : Word) : (s.writeFlag reg v).accL = s.accL := by
  cases reg <;> rfl
@[simp] theorem State.writeFlag_accM (s : State) (reg : FlagReg) (v : Word) : (s.writeFlag reg v).accM = s.accM := by
  cases reg <;> rfl
@[simp] theorem State.writeFlag_accH (s : State) (reg : FlagReg) (v : Word) : (s.writeFlag reg v).accH = s.accH := by
  cases reg <;> rfl
@[simp] theorem State.writeFlag_gpr (s : State) (reg : FlagReg) (v : Word) : (s.writeFlag reg v).gpr = s.gpr := by
  cases reg <;> rfl
@[simp] theorem State.writeFlag_requests (s : State) (reg : FlagReg) (v : Word) : (s.writeFlag reg v).requests = s.requests := by
  cases reg <;> rfl
@[simp] theorem State.writeFlag_replies (s : State) (reg : FlagReg) (v : Word) : (s.writeFlag reg v).replies = s.replies := by
  cases reg <;> rfl
@[simp] theorem State.writeFlag_vco_vco (s : State) (v : Word) : (s.writeFlag .vco v).vco = v.extractLsb' 0 16 := rfl
@[simp] theorem State.writeFlag_vco_vcc (s : State) (v : Word) : (s.writeFlag .vco v).vcc = s.vcc := rfl
@[simp] theorem State.writeFlag_vco_vce (s : State) (v : Word) : (s.writeFlag .vco v).vce = s.vce := rfl
@[simp] theorem State.writeFlag_vcc_vco (s : State) (v : Word) : (s.writeFlag .vcc v).vco = s.vco := rfl
@[simp] theorem State.writeFlag_vcc_vcc (s : State) (v : Word) : (s.writeFlag .vcc v).vcc = v.extractLsb' 0 16 := rfl
@[simp] theorem State.writeFlag_vcc_vce (s : State) (v : Word) : (s.writeFlag .vcc v).vce = s.vce := rfl
@[simp] theorem State.writeFlag_vce_vco (s : State) (v : Word) : (s.writeFlag .vce v).vco = s.vco := rfl
@[simp] theorem State.writeFlag_vce_vcc (s : State) (v : Word) : (s.writeFlag .vce v).vcc = s.vcc := rfl
@[simp] theorem State.writeFlag_vce_vce (s : State) (v : Word) : (s.writeFlag .vce v).vce = v.extractLsb' 0 8 := rfl

end writeFlag

section ofInit

@[simp] theorem State.ofInit_vr (init : InitState) (g : Vector Word 32) : (State.ofInit init g).vr = init.vr := rfl
@[simp] theorem State.ofInit_accL (init : InitState) (g : Vector Word 32) : (State.ofInit init g).accL = init.accL := rfl
@[simp] theorem State.ofInit_accM (init : InitState) (g : Vector Word 32) : (State.ofInit init g).accM = init.accM := rfl
@[simp] theorem State.ofInit_accH (init : InitState) (g : Vector Word 32) : (State.ofInit init g).accH = init.accH := rfl
@[simp] theorem State.ofInit_vco (init : InitState) (g : Vector Word 32) : (State.ofInit init g).vco = init.vco := rfl
@[simp] theorem State.ofInit_vcc (init : InitState) (g : Vector Word 32) : (State.ofInit init g).vcc = init.vcc := rfl
@[simp] theorem State.ofInit_vce (init : InitState) (g : Vector Word 32) : (State.ofInit init g).vce = init.vce := rfl
@[simp] theorem State.ofInit_gpr (init : InitState) (g : Vector Word 32) : (State.ofInit init g).gpr = g := rfl
@[simp] theorem State.ofInit_requests (init : InitState) (g : Vector Word 32) : (State.ofInit init g).requests = [] := rfl
@[simp] theorem State.ofInit_replies (init : InitState) (g : Vector Word 32) : (State.ofInit init g).replies = [] := rfl

end ofInit

end Sys2Proof.Machine
end

