-- ==== Sys2Proof/Laws/Ops.lean ====
section
/-! SUPPORT. What each shared operation does, said once: lanes and registers, the accumulator words, the operand checks, the
three shapes of operation, the flag bits and the two ports. -/

namespace Sys2Proof.Machine

open Host (Outcome)

/-! ## Lanes and registers -/

@[simp] theorem laneMap_get (f : LaneIx → Lane) (i : LaneIx) : (laneMap f).get i = f i := by
  simp [laneMap, Vector.get_eq_getElem]

theorem lanes_ext {a b : Lanes} (h : ∀ i : LaneIx, a.get i = b.get i) : a = b := by
  apply Vector.ext
  intro i hi
  have := h ⟨i, hi⟩
  simpa [Vector.get_eq_getElem] using this

@[simp] theorem get_set_same {α : Type} {n : Nat} (v : Vector α n) (r : Fin n) (x : α) :
    (v.set r.val x r.isLt).get r = x := by
  simp [Vector.get_eq_getElem]

theorem get_set_other {α : Type} {n : Nat} (v : Vector α n) {r q : Fin n} (h : q ≠ r) (x : α) :
    (v.set r.val x r.isLt).get q = v.get q := by
  have hv : r.val ≠ q.val := fun e => h (Fin.ext e.symm)
  simp [Vector.get_eq_getElem, hv]

@[simp] theorem lane_writeVR_same (s : State) (r : RegIx) (v : Lanes) (i : LaneIx) :
    (s.writeVR r v).lane r i = v.get i := by
  simp [State.lane]

theorem lane_writeVR_other (s : State) {r q : RegIx} (h : q ≠ r) (v : Lanes) (i : LaneIx) :
    (s.writeVR r v).lane q i = s.lane q i := by
  simp [State.lane, get_set_other _ h]

theorem vr_writeVR_other (s : State) {r q : RegIx} (h : q ≠ r) (v : Lanes) :
    (s.writeVR r v).vr.get q = s.vr.get q := by
  simp [get_set_other _ h]

@[simp] theorem acc_writeVR (s : State) (r : RegIx) (v : Lanes) (i : LaneIx) : (s.writeVR r v).acc i = s.acc i := rfl

/-! ## Accumulator words -/

/-- The conceptual value of an accumulator lane (R23). -/
theorem joinAcc_toNat (h m l : Lane) : (joinAcc h m l).toNat = h.toNat * 2 ^ 32 + m.toNat * 2 ^ 16 + l.toNat := by
  have hl := l.isLt
  have hm := m.isLt
  have e : (joinAcc h m l).toNat = (h ++ m ++ l).toNat := rfl
  rw [e, BitVec.toNat_append, BitVec.toNat_append, ← Nat.shiftLeft_add_eq_or_of_lt hm,
    ← Nat.shiftLeft_add_eq_or_of_lt hl, Nat.shiftLeft_eq, Nat.shiftLeft_eq]
  omega

theorem accHigh_toNat (a : AccLane) : (accHigh a).toNat = a.toNat / 2 ^ 32 := by
  have := a.isLt
  simp only [accHigh, BitVec.extractLsb'_toNat, Nat.shiftRight_eq_div_pow]
  omega

theorem accMid_toNat (a : AccLane) : (accMid a).toNat = a.toNat / 2 ^ 16 % 2 ^ 16 := by
  simp [accMid, BitVec.extractLsb'_toNat, Nat.shiftRight_eq_div_pow]

theorem accLow_toNat (a : AccLane) : (accLow a).toNat = a.toNat % 2 ^ 16 := by
  simp [accLow, BitVec.extractLsb'_toNat]

@[simp] theorem joinAcc_split (a : AccLane) : joinAcc (accHigh a) (accMid a) (accLow a) = a := by
  apply BitVec.eq_of_toNat_eq
  rw [joinAcc_toNat, accHigh_toNat, accMid_toNat, accLow_toNat]
  omega

@[simp] theorem accHigh_joinAcc (h m l : Lane) : accHigh (joinAcc h m l) = h := by
  have hl := l.isLt
  have hm := m.isLt
  apply BitVec.eq_of_toNat_eq
  rw [accHigh_toNat, joinAcc_toNat]
  omega

@[simp] theorem accMid_joinAcc (h m l : Lane) : accMid (joinAcc h m l) = m := by
  have hl := l.isLt
  have hm := m.isLt
  apply BitVec.eq_of_toNat_eq
  rw [accMid_toNat, joinAcc_toNat]
  omega

@[simp] theorem accLow_joinAcc (h m l : Lane) : accLow (joinAcc h m l) = l := by
  have hl := l.isLt
  apply BitVec.eq_of_toNat_eq
  rw [accLow_toNat, joinAcc_toNat]
  omega

@[simp] theorem accHigh_acc (s : State) (i : LaneIx) : accHigh (s.acc i) = s.accH.get i := by simp [State.acc]
@[simp] theorem accMid_acc (s : State) (i : LaneIx) : accMid (s.acc i) = s.accM.get i := by simp [State.acc]
@[simp] theorem accLow_acc (s : State) (i : LaneIx) : accLow (s.acc i) = s.accL.get i := by simp [State.acc]

@[simp] theorem acc_writeAcc (s : State) (a : LaneIx → AccLane) (i : LaneIx) : (s.writeAcc a).acc i = a i := by
  simp [State.acc]

@[simp] theorem toAcc_toNat (x : Int) : ((toAcc x).toNat : Int) = x % 2 ^ 48 := by
  simp only [toAcc, BitVec.toNat_ofInt]
  omega

/-- AccAdd on patterns: it wraps mod 2^48 (R80). -/
theorem accAdd_eq_add (a : AccLane) (x : Int) : accAdd a x = a + toAcc x := by
  apply BitVec.eq_of_toNat_eq
  have h1 := toAcc_toNat (a.toNat + x)
  have h2 := toAcc_toNat x
  rw [BitVec.toNat_add]
  unfold accAdd
  omega

@[simp] theorem toAcc_zero : toAcc 0 = 0#48 := by decide

@[simp] theorem accAdd_zero_left (x : Int) : accAdd 0#48 x = toAcc x := by
  simp [accAdd_eq_add]

theorem joinAcc_eq_zero {h m l : Lane} (e : joinAcc h m l = 0#48) : h = 0#16 ∧ m = 0#16 ∧ l = 0#16 := by
  refine ⟨?_, ?_, ?_⟩
  · rw [← accHigh_joinAcc h m l, e]; decide
  · rw [← accMid_joinAcc h m l, e]; decide
  · rw [← accLow_joinAcc h m l, e]; decide

/-! ## Operand checks -/

/-- In range, the operands are what the request says (R50). -/
@[simp] theorem checkOperands_inRange (vd vs vt : RegIx) (e : Fin 16) :
    checkOperands vd.val vs.val vt.val e.val = .ok ⟨vd, vs, vt, e⟩ := by
  simp [checkOperands]

@[simp] theorem withOperands_inRange (vd vs vt : RegIx) (e : Fin 16) (run : Operands → State) :
    withOperands vd.val vs.val vt.val e.val run = .next (run ⟨vd, vs, vt, e⟩) := by
  simp [withOperands]

/-- Everything `withOperands` can do: run on the operands when all are in range, and otherwise refuse with the first field out
of range (R161, R163). -/
theorem withOperands_cases (vd vs vt e : Nat) (run : Operands → State) :
    (∃ o : Operands, vd = o.vd.val ∧ vs = o.vs.val ∧ vt = o.vt.val ∧ e = o.e.val ∧
      withOperands vd vs vt e run = .next (run o)) ∨
    (32 ≤ vd ∧ withOperands vd vs vt e run = .refused (.indexOutOfRange .vd vd)) ∨
    (vd < 32 ∧ 32 ≤ vs ∧ withOperands vd vs vt e run = .refused (.indexOutOfRange .vs vs)) ∨
    (vd < 32 ∧ vs < 32 ∧ 32 ≤ vt ∧ withOperands vd vs vt e run = .refused (.indexOutOfRange .vt vt)) ∨
    (vd < 32 ∧ vs < 32 ∧ vt < 32 ∧ 16 ≤ e ∧ withOperands vd vs vt e run = .refused (.indexOutOfRange .e e)) := by
  by_cases h1 : vd < 32
  · by_cases h2 : vs < 32
    · by_cases h3 : vt < 32
      · by_cases h4 : e < 16
        · exact .inl ⟨⟨⟨vd, h1⟩, ⟨vs, h2⟩, ⟨vt, h3⟩, ⟨e, h4⟩⟩, rfl, rfl, rfl, rfl, by
            simp [withOperands, checkOperands, h1, h2, h3, h4]⟩
        · exact .inr (.inr (.inr (.inr ⟨h1, h2, h3, by omega, by simp [withOperands, checkOperands, h1, h2, h3, h4]⟩)))
      · exact .inr (.inr (.inr (.inl ⟨h1, h2, by omega, by simp [withOperands, checkOperands, h1, h2, h3]⟩)))
    · exact .inr (.inr (.inl ⟨h1, by omega, by simp [withOperands, checkOperands, h1, h2]⟩))
  · exact .inr (.inl ⟨by omega, by simp [withOperands, checkOperands, h1]⟩)

/-- A next state comes only from operands in range. -/
theorem withOperands_next {vd vs vt e : Nat} {run : Operands → State} {t : State}
    (h : withOperands vd vs vt e run = .next t) :
    ∃ o : Operands, vd = o.vd.val ∧ vs = o.vs.val ∧ vt = o.vt.val ∧ e = o.e.val ∧ t = run o := by
  rcases withOperands_cases vd vs vt e run with ⟨o, h1, h2, h3, h4, h5⟩ | ⟨_, h5⟩ | ⟨_, _, h5⟩ | ⟨_, _, _, h5⟩ |
    ⟨_, _, _, _, h5⟩
  · rw [h5] at h
    injection h with h
    exact ⟨o, h1, h2, h3, h4, h.symm⟩
  all_goals rw [h5] at h; cases h

/-! ## Pieces -/

theorem samePiece_rfl (s : State) (p : Piece) : samePiece s s p := by
  cases p <;> rfl

theorem sameOutside_rfl (ps : List Piece) (s : State) : sameOutside ps s s :=
  ⟨fun p _ => samePiece_rfl s p, rfl, rfl⟩

theorem vrPieces_fin (r : RegIx) : vrPieces r.val = [.vr r] := by
  simp [vrPieces]

/-! ## The three shapes of operation -/

/-- All that `accumulatorOp` does: the accumulator and `VR[vd]` lane by lane from the state before, and nothing else. -/
theorem accumulatorOp_spec (o : Operands) (f : AccLane → Lane → Lane → AccLane) (g : Lane → Lane → Lane → Lane) (s : State) :
    (∀ i, (accumulatorOp o f g s).acc i = f (s.acc i) (s.vsLane o i) (s.vtLane o i)) ∧
    (∀ i, (accumulatorOp o f g s).lane o.vd i =
      g ((accumulatorOp o f g s).accH.get i) ((accumulatorOp o f g s).accM.get i) ((accumulatorOp o f g s).accL.get i)) ∧
    sameOutside [.vr o.vd, .accL, .accM, .accH] s (accumulatorOp o f g s) := by
  refine ⟨fun i => by simp [accumulatorOp], fun i => by simp [accumulatorOp], ?_, rfl, rfl⟩
  intro p hp
  cases p with
  | vr r =>
    have hr : r ≠ o.vd := fun e => hp (by simp [e])
    exact (vr_writeVR_other _ hr _).symm
  | accL => exact absurd (by simp) hp
  | accM => exact absurd (by simp) hp
  | accH => exact absurd (by simp) hp
  | vco => rfl
  | vcc => rfl
  | vce => rfl
  | gpr r => rfl

/-- All that `accumulatorHighMidOp` does: the high and mid words and `VR[vd]` lane by lane, and nothing else; `ACC_L` is
kept. -/
theorem accumulatorHighMidOp_spec (o : Operands) (fh fm : Lane → Lane → Lane → Lane → Lane) (g : Lane → Lane → Lane)
    (s : State) :
    (∀ i, (accumulatorHighMidOp o fh fm g s).accH.get i =
      fh (s.accH.get i) (s.accM.get i) (s.vsLane o i) (s.vtLane o i)) ∧
    (∀ i, (accumulatorHighMidOp o fh fm g s).accM.get i =
      fm (s.accH.get i) (s.accM.get i) (s.vsLane o i) (s.vtLane o i)) ∧
    (∀ i, (accumulatorHighMidOp o fh fm g s).lane o.vd i =
      g ((accumulatorHighMidOp o fh fm g s).accH.get i) ((accumulatorHighMidOp o fh fm g s).accM.get i)) ∧
    sameOutside [.vr o.vd, .accM, .accH] s (accumulatorHighMidOp o fh fm g s) := by
  refine ⟨fun i => by simp [accumulatorHighMidOp], fun i => by simp [accumulatorHighMidOp],
    fun i => by simp [accumulatorHighMidOp], ?_, rfl, rfl⟩
  intro p hp
  cases p with
  | vr r =>
    have hr : r ≠ o.vd := fun e => hp (by simp [e])
    exact (vr_writeVR_other _ hr _).symm
  | accL => rfl
  | accM => exact absurd (by simp) hp
  | accH => exact absurd (by simp) hp
  | vco => rfl
  | vcc => rfl
  | vce => rfl
  | gpr r => rfl

/-- The eight bits of `laneBits`, in order. -/
theorem laneBits_bits (b0 b1 b2 b3 b4 b5 b6 b7 : Bool) :
    let x : BitVec 8 := BitVec.ofBool b7 ++ BitVec.ofBool b6 ++ BitVec.ofBool b5 ++ BitVec.ofBool b4 ++
      BitVec.ofBool b3 ++ BitVec.ofBool b2 ++ BitVec.ofBool b1 ++ BitVec.ofBool b0
    x.getLsbD 0 = b0 ∧ x.getLsbD 1 = b1 ∧ x.getLsbD 2 = b2 ∧ x.getLsbD 3 = b3 ∧
    x.getLsbD 4 = b4 ∧ x.getLsbD 5 = b5 ∧ x.getLsbD 6 = b6 ∧ x.getLsbD 7 = b7 := by
  cases b0 <;> cases b1 <;> cases b2 <;> cases b3 <;> cases b4 <;> cases b5 <;> cases b6 <;> cases b7 <;> decide

@[simp] theorem laneBits_getLsbD (f : LaneIx → Bool) (i : LaneIx) : (laneBits f).getLsbD i.val = f i := by
  obtain ⟨h0, h1, h2, h3, h4, h5, h6, h7⟩ := laneBits_bits (f 0) (f 1) (f 2) (f 3) (f 4) (f 5) (f 6) (f 7)
  match i with
  | 0 => exact h0
  | 1 => exact h1
  | 2 => exact h2
  | 3 => exact h3
  | 4 => exact h4
  | 5 => exact h5
  | 6 => exact h6
  | 7 => exact h7

@[simp] theorem packVCC_le (le ge : LaneIx → Bool) (i : LaneIx) : (packVCC le ge).getLsbD i.val = le i := by
  have h : (packVCC le ge).getLsbD i.val = (laneBits ge ++ laneBits le).getLsbD i.val := rfl
  rw [h, BitVec.getLsbD_append, if_pos i.isLt]
  exact laneBits_getLsbD le i

@[simp] theorem packVCC_ge (le ge : LaneIx → Bool) (i : LaneIx) : (packVCC le ge).getLsbD (i.val + 8) = ge i := by
  have h : (packVCC le ge).getLsbD (i.val + 8) = (laneBits ge ++ laneBits le).getLsbD (i.val + 8) := rfl
  rw [h, BitVec.getLsbD_append, if_neg (by omega), Nat.add_sub_cancel]
  exact laneBits_getLsbD ge i

/-- All that `compareSelectOp` does: the chosen values to `ACC_L` and `VR[vd]`, VCC rebuilt, VCO and VCE cleared, and nothing
else. -/
theorem compareSelectOp_spec (o : Operands) (c : LaneIx → LaneChoice) (s : State) :
    (∀ i, (compareSelectOp o c s).accL.get i = (c i).res) ∧
    (∀ i, (compareSelectOp o c s).lane o.vd i = (c i).res) ∧
    (∀ i, (compareSelectOp o c s).lePrev i = (c i).le) ∧
    (∀ i, (compareSelectOp o c s).gePrev i = (c i).ge) ∧
    (compareSelectOp o c s).vco = 0#16 ∧ (compareSelectOp o c s).vce = 0#8 ∧
    sameOutside [.vr o.vd, .accL, .vco, .vcc, .vce] s (compareSelectOp o c s) := by
  refine ⟨fun i => ?_, fun i => ?_, fun i => packVCC_le _ _ i, fun i => packVCC_ge _ _ i, rfl, rfl, ?_, rfl, rfl⟩
  · simp [compareSelectOp]
  · exact (lane_writeVR_same _ _ _ i).trans (by simp)
  intro p hp
  cases p with
  | vr r =>
    have hr : r ≠ o.vd := fun e => hp (by simp [e])
    exact (vr_writeVR_other _ hr _).symm
  | accL => exact absurd (by simp) hp
  | accM => rfl
  | accH => rfl
  | vco => exact absurd (by simp) hp
  | vcc => exact absurd (by simp) hp
  | vce => exact absurd (by simp) hp
  | gpr r => rfl

/-! ## The two ports -/

/-- The select numbers that name a flag register (R31). -/
theorem flagReg?_eq_none {sel : Nat} : flagReg? sel = none ↔ 3 ≤ sel := by
  match sel with
  | 0 => simp [flagReg?]
  | 1 => simp [flagReg?]
  | 2 => simp [flagReg?]
  | n + 3 => simp [flagReg?]

/-- Everything a `FlagWrite` can do (R150, R152). -/
theorem flagWrite_cases (sel : Nat) (v : Word) (s : State) :
    (∃ reg, flagReg? sel = some reg ∧ flagWrite sel v s = .next (s.writeFlag reg v)) ∨
    (3 ≤ sel ∧ flagWrite sel v s = .refused (.flagSelInvalid sel)) := by
  cases h : flagReg? sel with
  | none => exact .inr ⟨flagReg?_eq_none.mp h, by simp [flagWrite, h]⟩
  | some reg => exact .inl ⟨reg, rfl, by simp [flagWrite, h]⟩

/-- Everything a `FlagRead` can do (R151, R152). -/
theorem flagRead_cases (sel : Nat) (store : FlagReg → Word → State) (s : State) :
    (∃ reg, flagReg? sel = some reg ∧ flagRead sel store s = .next (store reg (s.readFlag reg))) ∨
    (3 ≤ sel ∧ flagRead sel store s = .refused (.flagSelInvalid sel)) := by
  cases h : flagReg? sel with
  | none => exact .inr ⟨flagReg?_eq_none.mp h, by simp [flagRead, h]⟩
  | some reg => exact .inl ⟨reg, rfl, by simp [flagRead, h]⟩

/-- Everything a `HostWriteVR` can do (R41). -/
theorem hostWriteVR_cases (r : Nat) (v : Lanes) (s : State) :
    (∃ q : RegIx, r = q.val ∧ hostWriteVR r v s = .next (s.writeVR q v)) ∨
    (32 ≤ r ∧ hostWriteVR r v s = .refused (.hostIndexOutOfRange r)) := by
  by_cases h : r < 32
  · exact .inl ⟨⟨r, h⟩, rfl, by simp [hostWriteVR, h]⟩
  · exact .inr ⟨by omega, by simp [hostWriteVR, h]⟩

/-- Everything a `HostReadVR` can do (R41). -/
theorem hostReadVR_cases (r : Nat) (s : State) :
    (∃ q : RegIx, r = q.val ∧ hostReadVR r s = .next (s.reply (.vector q (s.vr.get q)))) ∨
    (32 ≤ r ∧ hostReadVR r s = .refused (.hostIndexOutOfRange r)) := by
  by_cases h : r < 32
  · exact .inl ⟨⟨r, h⟩, rfl, by simp [hostReadVR, h]⟩
  · exact .inr ⟨by omega, by simp [hostReadVR, h]⟩

/-- A `FlagWrite` changes the selected register and nothing else (R150). -/
theorem writeFlag_sameOutside (s : State) (reg : FlagReg) (v : Word) :
    sameOutside [flagPiece reg] s (s.writeFlag reg v) := by
  refine ⟨?_, by simp, by simp⟩
  intro p hp
  cases reg <;> cases p <;> first | rfl | exact absurd (by simp [flagPiece]) hp

/-! ## Requests -/

/-- Everything a step can do: idle with nothing pending (R175), or serve the oldest request (R46). -/
theorem step_cases (s : State) :
    (s.requests = [] ∧ step s = .next s) ∨
    (∃ r rest, s.requests = r :: rest ∧ step s = serve r { s with requests := rest }) := by
  cases h : s.requests with
  | nil => exact .inl ⟨rfl, by simp [step, State.takeRequest, h]⟩
  | cons r rest => exact .inr ⟨r, rest, rfl, by simp [step, State.takeRequest, h]⟩

theorem run_zero (s : State) : Sys2Proof.core.run 0 s = .next s := rfl

/-- A run of `n + 1` steps: one step, then `n` more from its next state; it ends at the first refusal. -/
theorem run_succ (n : Nat) (s : State) :
    Sys2Proof.core.run (n + 1) s =
      match step s with
      | .next t => Sys2Proof.core.run n t
      | .fault r => .fault r
      | .refused r => .refused r := by
  have e : Sys2Proof.core.step s = step s := rfl
  cases h : step s <;> simp [Host.Core.run, e, h]

/-- A step whose oldest request is `q`. -/
theorem step_cons (s : State) (q : Request) (rest : List Request) :
    step { s with requests := q :: rest } = serve q { s with requests := rest } := rfl

end Sys2Proof.Machine
end

