-- ==== Sys2Proof/Laws/PerInstr.lean ====
section
/-! SUPPORT. Statements made instruction by instruction. Cop2Opcode: every instruction's word has the COP2 major opcode
`010010` in bits 31:26 (spec/30_encoding.md R52, R55). -/

namespace Sys2Proof.Laws

/-- The word of the instruction has the major opcode of R52 and R55. -/
def Cop2Opcode.Statement (i : Instr) : Prop := (encode i).extractLsb' 26 6 = 0b010010#6

/-- The top six bits of a COP2-VU word do not depend on its fields. -/
theorem vuWord_opcode (funct : BitVec 6) (vd vs vt e : Nat) :
    (vuWord funct vd vs vt e).extractLsb' 26 6 = 0b010010#6 := by
  have hf := funct.isLt
  apply BitVec.eq_of_toNat_eq
  rw [extractLsb'_toNat_div, vuWord_toNat, BitVec.toNat_ofNat]
  omega

/-- The top six bits of a flag-port word are those of its tag. -/
theorem moveWord_opcode {tag : BitVec 11} (h : tag.toNat / 32 = 18) (rt rd : RegIx) :
    (moveWord tag rt rd).extractLsb' 26 6 = 0b010010#6 := by
  have h1 := rt.isLt
  have h2 := rd.isLt
  apply BitVec.eq_of_toNat_eq
  rw [extractLsb'_toNat_div, moveWord_toNat, BitVec.toNat_ofNat]
  omega

theorem Cop2Opcode.vmulf (vd vs vt e : Nat) : Cop2Opcode.Statement (.vmulf vd vs vt e) := vuWord_opcode _ _ _ _ _
theorem Cop2Opcode.vmulu (vd vs vt e : Nat) : Cop2Opcode.Statement (.vmulu vd vs vt e) := vuWord_opcode _ _ _ _ _
theorem Cop2Opcode.vmudl (vd vs vt e : Nat) : Cop2Opcode.Statement (.vmudl vd vs vt e) := vuWord_opcode _ _ _ _ _
theorem Cop2Opcode.vmudm (vd vs vt e : Nat) : Cop2Opcode.Statement (.vmudm vd vs vt e) := vuWord_opcode _ _ _ _ _
theorem Cop2Opcode.vmudn (vd vs vt e : Nat) : Cop2Opcode.Statement (.vmudn vd vs vt e) := vuWord_opcode _ _ _ _ _
theorem Cop2Opcode.vmudh (vd vs vt e : Nat) : Cop2Opcode.Statement (.vmudh vd vs vt e) := vuWord_opcode _ _ _ _ _
theorem Cop2Opcode.vmacf (vd vs vt e : Nat) : Cop2Opcode.Statement (.vmacf vd vs vt e) := vuWord_opcode _ _ _ _ _
theorem Cop2Opcode.vmacu (vd vs vt e : Nat) : Cop2Opcode.Statement (.vmacu vd vs vt e) := vuWord_opcode _ _ _ _ _
theorem Cop2Opcode.vmadl (vd vs vt e : Nat) : Cop2Opcode.Statement (.vmadl vd vs vt e) := vuWord_opcode _ _ _ _ _
theorem Cop2Opcode.vmadm (vd vs vt e : Nat) : Cop2Opcode.Statement (.vmadm vd vs vt e) := vuWord_opcode _ _ _ _ _
theorem Cop2Opcode.vmadn (vd vs vt e : Nat) : Cop2Opcode.Statement (.vmadn vd vs vt e) := vuWord_opcode _ _ _ _ _
theorem Cop2Opcode.vmadh (vd vs vt e : Nat) : Cop2Opcode.Statement (.vmadh vd vs vt e) := vuWord_opcode _ _ _ _ _
theorem Cop2Opcode.vcl (vd vs vt e : Nat) : Cop2Opcode.Statement (.vcl vd vs vt e) := vuWord_opcode _ _ _ _ _
theorem Cop2Opcode.vcr (vd vs vt e : Nat) : Cop2Opcode.Statement (.vcr vd vs vt e) := vuWord_opcode _ _ _ _ _
theorem Cop2Opcode.ctc2 (rt rd : RegIx) : Cop2Opcode.Statement (.ctc2 rt rd) := moveWord_opcode (by decide) _ _
theorem Cop2Opcode.cfc2 (rt rd : RegIx) : Cop2Opcode.Statement (.cfc2 rt rd) := moveWord_opcode (by decide) _ _

end Sys2Proof.Laws
end

