-- ==== Sys2Proof/Laws/Safety.lean ====
section
/-! SUPPORT. The small lemmas of the terms of Safety.lean: sequences of requests put one after another, and what is known after
them. -/

namespace Sys2Proof.Machine

/-- What is known before a sequence is known after it. -/
theorem mem_knownAfter_of_mem (qs : List Request) {known : List Piece} {p : Piece} (h : p ∈ known) :
    p ∈ knownAfter known qs := by
  induction qs generalizing known with
  | nil => exact h
  | cons q qs ih => exact ih (List.mem_append_right _ h)

theorem knownAfter_append (a b : List Request) (known : List Piece) :
    knownAfter known (a ++ b) = knownAfter (knownAfter known a) b := by
  induction a generalizing known with
  | nil => rfl
  | cons q a ih => exact ih _

theorem readsDefined_append (a b : List Request) (known : List Piece) :
    readsDefined known (a ++ b) = (readsDefined known a && readsDefined (knownAfter known a) b) := by
  induction a generalizing known with
  | nil => simp [readsDefined, knownAfter]
  | cons q a ih => simp [readsDefined, knownAfter, ih, Bool.and_assoc]

/-- Every piece of state is in the list of them. -/
theorem mem_allPieces (p : Piece) : p ∈ allPieces := by
  cases p <;> simp [allPieces, gprPieces]

end Sys2Proof.Machine
end

