-- ==== Sys2Proof/Machine/Asm.lean ====
section
/-! DEFINITION. The assembler syntax of spec/30_encoding.md R62, as a printer. No rule of the block uses it. -/

namespace Sys2Proof.Machine

/-- The element suffix of VT (R62); none for a number that is no element code. -/
def elementSuffix (e : Nat) : Option String :=
  match e with
  | 0 => some ""
  | 1 => some "[e1]"
  | 2 => some "[0q]"
  | 3 => some "[1q]"
  | 4 => some "[0h]"
  | 5 => some "[1h]"
  | 6 => some "[2h]"
  | 7 => some "[3h]"
  | n + 8 => if n < 8 then some ("[" ++ toString n ++ "]") else none

/-- The flag name of a select number (R62); none for 3 and above, for which the spec gives no spelling. -/
def flagName (sel : Nat) : Option String :=
  match sel with
  | 0 => some "$vco"
  | 1 => some "$vcc"
  | 2 => some "$vce"
  | _ => none

/-- A vector operation's line, `<mnemonic> $v<vd>, $v<vs>, $v<vt><suffix>` (R62); none when an operand is out of range. -/
def vuAsm (mnemonic : String) (vd vs vt e : Nat) : Option String :=
  if vd < 32 ∧ vs < 32 ∧ vt < 32 then
    (elementSuffix e).map fun suffix =>
      mnemonic ++ " $v" ++ toString vd ++ ", $v" ++ toString vs ++ ", $v" ++ toString vt ++ suffix
  else none

/-- A flag transfer's line, `<mnemonic> $<rt>, $<flag>` (R62). -/
def moveAsm (mnemonic : String) (rt rd : RegIx) : Option String :=
  (flagName rd.val).map fun flag => mnemonic ++ " $" ++ toString rt.val ++ ", " ++ flag

/-- The assembler line of an instruction, where the spec gives one (R62). -/
def asmLine : Instr → Option String
  | .vmulf vd vs vt e => vuAsm "vmulf" vd vs vt e
  | .vmulu vd vs vt e => vuAsm "vmulu" vd vs vt e
  | .vmudl vd vs vt e => vuAsm "vmudl" vd vs vt e
  | .vmudm vd vs vt e => vuAsm "vmudm" vd vs vt e
  | .vmudn vd vs vt e => vuAsm "vmudn" vd vs vt e
  | .vmudh vd vs vt e => vuAsm "vmudh" vd vs vt e
  | .vmacf vd vs vt e => vuAsm "vmacf" vd vs vt e
  | .vmacu vd vs vt e => vuAsm "vmacu" vd vs vt e
  | .vmadl vd vs vt e => vuAsm "vmadl" vd vs vt e
  | .vmadm vd vs vt e => vuAsm "vmadm" vd vs vt e
  | .vmadn vd vs vt e => vuAsm "vmadn" vd vs vt e
  | .vmadh vd vs vt e => vuAsm "vmadh" vd vs vt e
  | .vcl vd vs vt e => vuAsm "vcl" vd vs vt e
  | .vcr vd vs vt e => vuAsm "vcr" vd vs vt e
  | .ctc2 rt rd => moveAsm "ctc2" rt rd
  | .cfc2 rt rd => moveAsm "cfc2" rt rd

end Sys2Proof.Machine
end

