-- ==== Sys2Proof/Tests/Slice0.lean ====
section
/-! SUPPORT. The model's own tests: named theorems on fixed words and small states. Expected values come from
spec/95_test_vectors.md (the section is named at each test) or from the encoding rules of spec/30_encoding.md; the
witness_ theorems at the end show that the hypotheses of each statement can be met. -/

namespace Sys2Proof.Machine.Tests

open Sys2Proof Sys2Proof.Machine

/-! ## Helpers -/

/-- Eight lanes, lane 0 first; lanes not listed are 0. -/
def lanesOf (xs : List Nat) : Lanes := laneMap fun i => BitVec.ofNat 16 (xs.getD i.val 0)

/-- VR[1] and VR[2] with the given lanes, the accumulator with the given lanes, all else as after reset. -/
def st (xs ys : List Nat) (acc : List Nat := []) : State :=
  { State.reset with
    vr := (State.reset.vr.set 1 (lanesOf xs)).set 2 (lanesOf ys)
    accH := laneMap fun i => accHigh (BitVec.ofNat 48 (acc.getD i.val 0))
    accM := laneMap fun i => accMid (BitVec.ofNat 48 (acc.getD i.val 0))
    accL := laneMap fun i => accLow (BitVec.ofNat 48 (acc.getD i.val 0)) }

/-- What a completed outcome holds; none for a refusal. -/
def look {β : Type} (o : Host.Outcome State Fault Refusal) (f : State → β) : Option β :=
  match o with
  | .next t => some (f t)
  | _ => none

/-- The refusal an outcome is; none for a next state. -/
def refusal (o : Host.Outcome State Fault Refusal) : Option Refusal :=
  match o with
  | .refused r => some r
  | _ => none

/-- The accumulator's lanes and a register's lanes, as numbers. -/
def accAndReg (r : RegIx) (t : State) : List Nat × List Nat :=
  ((List.finRange 8).map fun i => (t.acc i).toNat, (List.finRange 8).map fun i => (t.lane r i).toNat)

/-- A register's lanes, VCC, VCO and VCE, as numbers. -/
def regAndFlags (r : RegIx) (t : State) : List Nat × Nat × Nat × Nat :=
  ((List.finRange 8).map fun i => (t.lane r i).toNat, t.vcc.toNat, t.vco.toNat, t.vce.toNat)

/-! ## Well-formedness refuses an ill-formed term for each check -/

theorem test_wf_vd : (Instr.vmulf 32 1 2 0).wellFormed = false := by decide
theorem test_wf_vs : (Instr.vcl 3 32 2 0).wellFormed = false := by decide
theorem test_wf_vt : (Instr.vmadh 3 1 32 0).wellFormed = false := by decide
theorem test_wf_e : (Instr.vcr 3 1 2 16).wellFormed = false := by decide
theorem test_wf_accepts : (Instr.vmulf 31 31 31 15).wellFormed = true ∧ (Instr.ctc2 31 31).wellFormed = true := by decide

/-! ## Decoding and encoding: every constructor, its word written out field by field (R52 to R55)

`0b0100101 eeee ttttt sssss ddddd ffffff` with e = 9, vt = 18, vs = 5, vd = 12, and `0b01001000110 ttttt ddddd 0...0` with
rt = 21, rd = 2. -/

theorem test_word_vmulf : decodeTableWord 32 0b0100101_1001_10010_00101_01100_000000 = some (.vmulf 12 5 18 9) ∧
    encode (.vmulf 12 5 18 9) = 0b0100101_1001_10010_00101_01100_000000#32 := by decide
theorem test_word_vmulu : decodeTableWord 32 0b0100101_1001_10010_00101_01100_000001 = some (.vmulu 12 5 18 9) ∧
    encode (.vmulu 12 5 18 9) = 0b0100101_1001_10010_00101_01100_000001#32 := by decide
theorem test_word_vmudl : decodeTableWord 32 0b0100101_1001_10010_00101_01100_000100 = some (.vmudl 12 5 18 9) ∧
    encode (.vmudl 12 5 18 9) = 0b0100101_1001_10010_00101_01100_000100#32 := by decide
theorem test_word_vmudm : decodeTableWord 32 0b0100101_1001_10010_00101_01100_000101 = some (.vmudm 12 5 18 9) ∧
    encode (.vmudm 12 5 18 9) = 0b0100101_1001_10010_00101_01100_000101#32 := by decide
theorem test_word_vmudn : decodeTableWord 32 0b0100101_1001_10010_00101_01100_000110 = some (.vmudn 12 5 18 9) ∧
    encode (.vmudn 12 5 18 9) = 0b0100101_1001_10010_00101_01100_000110#32 := by decide
theorem test_word_vmudh : decodeTableWord 32 0b0100101_1001_10010_00101_01100_000111 = some (.vmudh 12 5 18 9) ∧
    encode (.vmudh 12 5 18 9) = 0b0100101_1001_10010_00101_01100_000111#32 := by decide
theorem test_word_vmacf : decodeTableWord 32 0b0100101_1001_10010_00101_01100_001000 = some (.vmacf 12 5 18 9) ∧
    encode (.vmacf 12 5 18 9) = 0b0100101_1001_10010_00101_01100_001000#32 := by decide
theorem test_word_vmacu : decodeTableWord 32 0b0100101_1001_10010_00101_01100_001001 = some (.vmacu 12 5 18 9) ∧
    encode (.vmacu 12 5 18 9) = 0b0100101_1001_10010_00101_01100_001001#32 := by decide
theorem test_word_vmadl : decodeTableWord 32 0b0100101_1001_10010_00101_01100_001100 = some (.vmadl 12 5 18 9) ∧
    encode (.vmadl 12 5 18 9) = 0b0100101_1001_10010_00101_01100_001100#32 := by decide
theorem test_word_vmadm : decodeTableWord 32 0b0100101_1001_10010_00101_01100_001101 = some (.vmadm 12 5 18 9) ∧
    encode (.vmadm 12 5 18 9) = 0b0100101_1001_10010_00101_01100_001101#32 := by decide
theorem test_word_vmadn : decodeTableWord 32 0b0100101_1001_10010_00101_01100_001110 = some (.vmadn 12 5 18 9) ∧
    encode (.vmadn 12 5 18 9) = 0b0100101_1001_10010_00101_01100_001110#32 := by decide
theorem test_word_vmadh : decodeTableWord 32 0b0100101_1001_10010_00101_01100_001111 = some (.vmadh 12 5 18 9) ∧
    encode (.vmadh 12 5 18 9) = 0b0100101_1001_10010_00101_01100_001111#32 := by decide
theorem test_word_vcl : decodeTableWord 32 0b0100101_1001_10010_00101_01100_100100 = some (.vcl 12 5 18 9) ∧
    encode (.vcl 12 5 18 9) = 0b0100101_1001_10010_00101_01100_100100#32 := by decide
theorem test_word_vcr : decodeTableWord 32 0b0100101_1001_10010_00101_01100_100110 = some (.vcr 12 5 18 9) ∧
    encode (.vcr 12 5 18 9) = 0b0100101_1001_10010_00101_01100_100110#32 := by decide
theorem test_word_ctc2 : decodeTableWord 32 0b01001000110_10101_00010_00000000000 = some (.ctc2 21 2) ∧
    encode (.ctc2 21 2) = 0b01001000110_10101_00010_00000000000#32 := by decide
theorem test_word_cfc2 : decodeTableWord 32 0b01001000010_10101_00010_00000000000 = some (.cfc2 21 2) ∧
    encode (.cfc2 21 2) = 0b01001000010_10101_00010_00000000000#32 := by decide

/-- The words of 95_test_vectors.md section 2.8 that name no instruction, and a rd of 3, which decodes and is refused by the port
(R55, R57, R58, R152). -/
theorem test_words_refused :
    decodeTableWord 32 0x4A000010 = none ∧ decodeTableWord 32 0x4A00003F = none ∧ decodeTableWord 32 0x48C80001 = none ∧
    decodeTableWord 32 0x48880000 = none ∧ decodeTableWord 32 0x00000000 = none := by decide

theorem test_word_refusal_reasons :
    refusal (runWord 0x4A000010#32 State.reset) = some (.functNotInBlock 0x10#6) ∧
    refusal (runWord 0x48880000#32 State.reset) = some .notBlockWord ∧
    refusal (runWord 0x48C81800#32 State.reset) = some (.flagSelInvalid 3) := by decide

/-- The step from a word placed by withFetchWord runs that word's instruction (P1 step 1: VT broadcast of VR[2][0]). -/
theorem test_step_runs_word :
    look (step ((st [0x4000, 0x8000, 0x7FFF, 0xFFFF, 1, 0x8000, 0x1234] [0x4000]).withFetchWord 32 0x4B020900))
      (fun t => (accAndReg 4 t).2) = some [0x2000, 0xC000, 0x4000, 0, 1, 0xC000, 0x091A, 0] := by decide

/-! ## The assembler's lines (R62, section 2.8) -/

theorem test_asm_lines :
    asmLine (.vmacf 3 1 2 2) = some "vmacf $v3, $v1, $v2[0q]" ∧ asmLine (.vmadh 10 9 8 12) = some "vmadh $v10, $v9, $v8[4]" ∧
    asmLine (.ctc2 8 0) = some "ctc2 $8, $vco" ∧ asmLine (.cfc2 11 1) = some "cfc2 $11, $vcc" ∧
    asmLine (.cfc2 11 3) = none := by decide

/-! ## Clamps (section 2.1): the rows of the table -/

def clampRows : List (Lane × Lane × Lane) :=
  [(0x0000, 0x7FFF, 0x1234), (0x0000, 0x8000, 0x1234), (0xFFFF, 0x8000, 0x1234), (0xFFFF, 0x7FFF, 0x1234), (0x0000,
      0x0000, 0x0000), (0xFFFF, 0xFFFF, 0xFFFF),
   (0x0000, 0xFFFF, 0xFFFF), (0x0001, 0x0000, 0x0000), (0x7FFF, 0xFFFF, 0xFFFF), (0x8000, 0x0000, 0x0000),
   (0xFFFE, 0xFFFF, 0xFFFF), (0x1234, 0x5678, 0x9ABC)]

theorem test_clamp_signed_mid : clampRows.map (fun r => signedClampMid r.1 r.2.1) =
    [0x7FFF, 0x7FFF, 0x8000, 0x8000, 0x0000, 0xFFFF, 0x7FFF, 0x7FFF, 0x7FFF, 0x8000, 0x8000, 0x7FFF] := by decide
theorem test_clamp_signed_low : clampRows.map (fun r => signedClampLow r.1 r.2.1 r.2.2) =
    [0x1234, 0xFFFF, 0x1234, 0x0000, 0x0000, 0xFFFF, 0xFFFF, 0xFFFF, 0xFFFF, 0x0000, 0x0000, 0xFFFF] := by decide
theorem test_clamp_unsigned_mid : clampRows.map (fun r => vmuluClamp .doc r.1 r.2.1) =
    [0x7FFF, 0x8000, 0x0000, 0x0000, 0x0000, 0x0000, 0xFFFF, 0xFFFF, 0xFFFF, 0x0000, 0x0000, 0xFFFF] := by decide
theorem test_clamp_unsigned_mid_macu : clampRows.map (fun r => vmacuClamp .doc r.1 r.2.1) =
    [0x7FFF, 0x0000, 0x0000, 0x0000, 0x0000, 0x0000, 0x0000, 0xFFFF, 0xFFFF, 0x0000, 0x0000, 0xFFFF] := by decide
theorem test_clamp_unsigned_ref : clampRows.map (fun r => vmuluClamp .ref r.1 r.2.1) =
    [0x7FFF, 0xFFFF, 0x0000, 0x0000, 0x0000, 0x0000, 0xFFFF, 0xFFFF, 0xFFFF, 0x0000, 0x0000, 0xFFFF] := by decide

/-! ## Swizzle (section 2.2) -/

/-- The operand `VT'` of element code `e` for VR[vt] = [A0, B0, C0, D0, E0, F0, 100, 110]. -/
def swizzled (rule : SwizzleOneRule) (e : Fin 16) : List Nat :=
  (List.finRange 8).map fun i => [0xA0, 0xB0, 0xC0, 0xD0, 0xE0, 0xF0, 0x100, 0x110].getD (swz rule e i).val 0

theorem test_swizzle_0 : swizzled .doc 0 = [0xA0, 0xB0, 0xC0, 0xD0, 0xE0, 0xF0, 0x100, 0x110] := by decide
theorem test_swizzle_1 : swizzled .doc 1 = [0xB0, 0xB0, 0xD0, 0xD0, 0xF0, 0xF0, 0x110, 0x110] := by decide
theorem test_swizzle_1_ref : swizzled .ref 1 = [0xA0, 0xB0, 0xC0, 0xD0, 0xE0, 0xF0, 0x100, 0x110] := by decide
theorem test_swizzle_2 : swizzled .doc 2 = [0xA0, 0xA0, 0xC0, 0xC0, 0xE0, 0xE0, 0x100, 0x100] := by decide
theorem test_swizzle_3 : swizzled .doc 3 = [0xB0, 0xB0, 0xD0, 0xD0, 0xF0, 0xF0, 0x110, 0x110] := by decide
theorem test_swizzle_4 : swizzled .doc 4 = [0xA0, 0xA0, 0xA0, 0xA0, 0xE0, 0xE0, 0xE0, 0xE0] := by decide
theorem test_swizzle_5 : swizzled .doc 5 = [0xB0, 0xB0, 0xB0, 0xB0, 0xF0, 0xF0, 0xF0, 0xF0] := by decide
theorem test_swizzle_6 : swizzled .doc 6 = [0xC0, 0xC0, 0xC0, 0xC0, 0x100, 0x100, 0x100, 0x100] := by decide
theorem test_swizzle_7 : swizzled .doc 7 = [0xD0, 0xD0, 0xD0, 0xD0, 0x110, 0x110, 0x110, 0x110] := by decide
theorem test_swizzle_9 : swizzled .doc 9 = List.replicate 8 0xB0 := by decide
theorem test_swizzle_15 : swizzled .doc 15 = List.replicate 8 0x110 := by decide

/-! ## Multiply family (section 2.3 and table W5) -/

/-- Section 2.3; lanes of zeros by R90 and R91: accumulator 0x8000, result 0. -/
theorem test_vmulf :
    look (exec (.vmulf 3 1 2 0) (st [0x4000, 0x8000, 0x7FFF, 0x8000, 0xFFFF, 0x0001, 0x1234]
      [0x4000, 0x8000, 0x7FFF, 0x7FFF, 0xFFFF, 0xFFFF, 0x0002])) (accAndReg 3) =
    some ([0x000020008000, 0x000080008000, 0x00007FFE8002, 0xFFFF80018000, 0x000000008002, 0x000000007FFE,
      0x00000000C8D0, 0x8000],
      [0x2000, 0x7FFF, 0x7FFE, 0x8001, 0x0000, 0x0000, 0x0000, 0]) := by decide
/-- Section 2.3; lanes of zeros by R90 and R91: accumulator 0x8000, result 0. -/
theorem test_vmulu :
    look (exec (.vmulu 3 1 2 0) (st [0x8000, 0x8000, 0x7FFF]
      [0x8000, 0x7FFF, 0x7FFF])) (accAndReg 3) =
    some ([0x000080008000, 0xFFFF80018000, 0x00007FFE8002, 0x8000, 0x8000, 0x8000, 0x8000, 0x8000],
      [0x8000, 0x0000, 0x7FFE, 0, 0, 0, 0, 0]) := by decide
/-- Section 2.3 and W5. -/
theorem test_vmudl :
    look (exec (.vmudl 3 1 2 0) (st [0xFFFF, 0x8000, 0x7FFF, 0x8000, 0x0001, 0xFFFF, 0x7FFF, 0xFFFF]
      [0xFFFF, 0x8000, 0x8000, 0x7FFF, 0xFFFF, 0x0001, 0x7FFF, 0x7FFF])) (accAndReg 3) =
    some ([0x00000000FFFE, 0x000000004000, 0x000000003FFF, 0x000000003FFF, 0x000000000000, 0x000000000000,
      0x000000003FFF, 0x000000007FFE],
      [0xFFFE, 0x4000, 0x3FFF, 0x3FFF, 0x0000, 0x0000, 0x3FFF, 0x7FFE]) := by decide
/-- Section 2.3 and W5. -/
theorem test_vmudm :
    look (exec (.vmudm 3 1 2 0) (st [0x8000, 0x7FFF, 0xFFFF, 0x7FFF, 0x8000, 0x0001, 0xFFFF, 0x7FFF]
      [0xFFFF, 0xFFFF, 0xFFFF, 0x8000, 0x7FFF, 0xFFFF, 0x0001, 0x7FFF])) (accAndReg 3) =
    some ([0xFFFF80008000, 0x00007FFE8001, 0xFFFFFFFF0001, 0x00003FFF8000, 0xFFFFC0008000, 0x00000000FFFF,
      0xFFFFFFFFFFFF, 0x00003FFF0001],
      [0x8000, 0x7FFE, 0xFFFF, 0x3FFF, 0xC000, 0x0000, 0xFFFF, 0x3FFF]) := by decide
/-- Section 2.3 and W5. -/
theorem test_vmudn :
    look (exec (.vmudn 3 1 2 0) (st [0x8000, 0xFFFF, 0x0003, 0x7FFF, 0x8000, 0x0001, 0xFFFF, 0x7FFF]
      [0x8000, 0xFFFF, 0x0002, 0x8000, 0x7FFF, 0xFFFF, 0x0001, 0x7FFF])) (accAndReg 3) =
    some ([0xFFFFC0000000, 0xFFFFFFFF0001, 0x000000000006, 0xFFFFC0008000, 0x00003FFF8000, 0xFFFFFFFFFFFF,
      0x00000000FFFF, 0x00003FFF0001],
      [0x0000, 0x0001, 0x0006, 0x8000, 0x8000, 0xFFFF, 0xFFFF, 0x0001]) := by decide
/-- Section 2.3 and W5. -/
theorem test_vmudh :
    look (exec (.vmudh 3 1 2 0) (st [0x8000, 0x0100, 0x0100, 0xFFFE, 0x0000, 0x7FFF, 0x8000, 0x0001]
      [0x8000, 0x0100, 0xFF00, 0x0003, 0x0000, 0x8000, 0x7FFF, 0xFFFF])) (accAndReg 3) =
    some ([0x400000000000, 0x000100000000, 0xFFFF00000000, 0xFFFFFFFA0000, 0x000000000000, 0xC00080000000,
      0xC00080000000, 0xFFFFFFFF0000],
      [0x7FFF, 0x7FFF, 0x8000, 0xFFFA, 0x0000, 0x8000, 0x8000, 0xFFFF]) := by decide
/-- Section 2.9: all three fields name one register. -/
theorem test_vmulf_all_same :
    look (exec (.vmulf 1 1 1 0) (st [0x4000, 0x2000, 0x8000, 0x7FFF, 0xFFFF, 1, 0,
      0x1000] [])) (fun t => (accAndReg 1 t).2) =
    some [0x2000, 0x0800, 0x7FFF, 0x7FFE, 0, 0, 0, 0x0200] := by decide
/-- Section 2.9: the destination is the broadcast source. -/
theorem test_vmudh_destination_is_broadcast :
    look (exec (.vmudh 2 1 2 9) (st [1, 2, 3, 4, 5, 6, 7, 8] [0x100, 0x200, 0x300, 0x400, 0x500, 0x600, 0x700,
      0x800]))
      (fun t => (accAndReg 2 t).2) = some [0x200, 0x400, 0x600, 0x800, 0xA00, 0xC00, 0xE00, 0x1000] := by decide

/-! ## Multiply-accumulate family (section 2.4) -/

/-- Section 2.4; a lane of zeros stays 0. -/
theorem test_vmacf :
    look (exec (.vmacf 3 1 2 0) (st [0x8000, 0x0001, 0x0001, 0x8000, 0x0001, 0x4000]
      [0x8000, 0x0001, 0x0001, 0x7FFF, 0x0001, 0x4000] [0x000000000000, 0x00000000FFFF, 0x7FFFFFFFFFFF,
      0x000000000000, 0xFFFFFFFFFFFF, 0x000000000000])) (accAndReg 3) =
    some ([0x000080000000, 0x000000010001, 0x800000000001, 0xFFFF80010000, 0x000000000001, 0x000020000000, 0, 0],
      [0x7FFF, 0x0001, 0x8000, 0x8001, 0x0000, 0x2000, 0, 0]) := by decide
/-- Section 2.4; a lane of zeros stays 0. -/
theorem test_vmacu :
    look (exec (.vmacu 3 1 2 0) (st [0x4000, 0x0000, 0x8000]
      [0x4000, 0x0000, 0x7FFF] [0x000060000000, 0x000180000000, 0x000000000000])) (accAndReg 3) =
    some ([0x000080000000, 0x000180000000, 0xFFFF80010000, 0, 0, 0, 0, 0],
      [0x0000, 0xFFFF, 0x0000, 0, 0, 0, 0, 0]) := by decide
/-- Section 2.4; a lane of zeros stays 0. -/
theorem test_vmadl :
    look (exec (.vmadl 3 1 2 0) (st [0xFFFF, 0xFFFF, 0x0000, 0x0000]
      [0xFFFF, 0xFFFF, 0x0000, 0x0000] [0x00000000FFFF, 0x00007FFFFFFF, 0xFFFF80001234,
      0xFFFF7FFF1234])) (accAndReg 3) =
    some ([0x00000001FFFD, 0x00008000FFFD, 0xFFFF80001234, 0xFFFF7FFF1234, 0, 0, 0, 0],
      [0xFFFD, 0xFFFF, 0x1234, 0x0000, 0, 0, 0, 0]) := by decide
/-- Section 2.4; a lane of zeros stays 0. -/
theorem test_vmadm :
    look (exec (.vmadm 3 1 2 0) (st [0x7FFF, 0x8000, 0x8000]
      [0xFFFF, 0xFFFF, 0xFFFF] [0x00007FFE8001, 0x000000000000, 0xFFFF80008000])) (accAndReg 3) =
    some ([0x0000FFFD0002, 0xFFFF80008000, 0xFFFF00010000, 0, 0, 0, 0, 0],
      [0x7FFF, 0x8000, 0x8000, 0, 0, 0, 0, 0]) := by decide
/-- Section 2.4; a lane of zeros stays 0. -/
theorem test_vmadn :
    look (exec (.vmadn 3 1 2 0) (st [0xFFFF, 0x8000, 0xFFFF]
      [0x7FFF, 0x8000, 0x7FFF] [0x00007FFE8001, 0x000000000000, 0x000000000000])) (accAndReg 3) =
    some ([0x0000FFFD0002, 0xFFFFC0000000, 0x00007FFE8001, 0, 0, 0, 0, 0],
      [0xFFFF, 0x0000, 0x8001, 0, 0, 0, 0, 0]) := by decide
/-- Section 2.4; a lane of zeros stays 0. -/
theorem test_vmadh :
    look (exec (.vmadh 3 1 2 0) (st [0x0002, 0x0001, 0xFFFF, 0x4000]
      [0x0003, 0x0001, 0x0006, 0x4000] [0x000000001234, 0x0000FFFF0000, 0x00000005ABCD,
      0x000000000000])) (accAndReg 3) =
    some ([0x000000061234, 0x000100000000, 0xFFFFFFFFABCD, 0x100000000000, 0, 0, 0, 0],
      [0x0006, 0x7FFF, 0xFFFF, 0x7FFF, 0, 0, 0, 0]) := by decide

/-! ## Compare-select (sections 2.5 and 2.6) -/

/-- Section 2.5, rows with carry set, where `eq` holds. -/
theorem test_vcl_carry :
    look (exec (.vcl 3 1 2 0) { st [0x0000, 0xFFFF, 0xFFFF, 0x0005, 0x0005, 0x8000, 0x8000, 0xFFFF]
      [0x0000, 0x0001, 0x0001, 0x0003, 0x0003, 0x8000, 0x8000, 0xFFFF] with vco := 0x00FF, vcc := 0x0440, vce := 0xD5 }) (regAndFlags 3) =
    some ([0x0000, 0xFFFF, 0xFFFF, 0x0005, 0xFFFD, 0x8000, 0x8000, 0xFFFF], 0x0455, 0, 0) := by decide
/-- Section 2.5, rows with carry passed flags and rows without carry. -/
theorem test_vcl_pass_and_no_carry :
    look (exec (.vcl 3 1 2 0) { st [0x0005, 0x0005, 0x0000, 0xFFFF, 0x0001, 0x0005, 0x0005, 0x7FFF]
      [0x0003, 0x0003, 0x0000, 0x0001, 0xFFFF, 0x0003, 0x0003, 0x8000] with vco := 0x6707, vcc := 0x5556, vce := 0x24 }) (regAndFlags 3) =
    some ([0x0005, 0xFFFD, 0x0000, 0x0001, 0x0001, 0x0005, 0x0003, 0x7FFF], 0x4D56, 0, 0) := by decide
/-- Section 2.6, the first rows; every flag is set before, and VCR reads none. -/
theorem test_vcr_first_rows :
    look (exec (.vcr 3 1 2 0) { st [0xFFFB, 0xFFFD, 0x0005, 0x0002, 0xFFFB, 0x0000, 0x8000, 0x7FFF]
      [0x0003, 0x0003, 0xFFFD, 0xFFFD, 0xFFFD, 0x0000, 0x7FFF, 0x8000] with vco := 0xFFFF, vcc := 0xFFFF, vce := 0xFF }) (regAndFlags 3) =
    some ([0xFFFC, 0xFFFD, 0x0005, 0x0002, 0xFFFB, 0x0000, 0x8000, 0x7FFF], 0xACD9, 0, 0) := by decide
/-- Section 2.6, the later rows. -/
theorem test_vcr_later_rows :
    look (exec (.vcr 3 1 2 0) { st [0x0003, 0xFFFC, 0x0000, 0xFFFF, 0x7FFF, 0x1234, 0xFF00, 0xFEFF]
      [0x0005, 0x0003, 0xFFFF, 0x0000, 0x7FFF, 0x0100, 0x0100, 0x0100] with vco := 0xFFFF, vcc := 0xFFFF, vce := 0xFF }) (regAndFlags 3) =
    some ([0x0003, 0xFFFC, 0x0000, 0xFFFF, 0x7FFF, 0x0100, 0xFF00, 0xFEFF], 0x348E, 0, 0) := by decide

/-! ## Flag port and host port (sections 2.7; R41, R150 to R152, R161, R163) -/

/-- GPR[8] holds the value. -/
def withGpr (v : Word) : State := { State.reset with gpr := State.reset.gpr.set 8 v }

theorem test_ctc2_vcc : look (exec (.ctc2 8 1) (withGpr 0xFFFF8002)) (fun t => t.vcc) = some 0x8002#16 := by decide
theorem test_ctc2_vce : look (exec (.ctc2 8 2) (withGpr 0x00000304)) (fun t => t.vce) = some 0x04#8 := by decide
/-- Section 2.7: the value is zero-extended, also with bit 15 set. -/
theorem test_cfc2_vco : look (exec (.cfc2 11 0) { State.reset with vco := 0x8001 }) (fun t => t.gpr.get 11) = some 0x00008001#32 := by
  decide
theorem test_cfc2_vce : look (exec (.cfc2 11 2) { State.reset with vce := 0xFF }) (fun t => t.gpr.get 11) = some 0x000000FF#32 := by
  decide
theorem test_flagRead_replies :
    look (serve (.flagRead 1) { State.reset with vcc := 0x600E }) (fun t => t.replies) = some [.flag .vcc 0x0000600E] := by decide
theorem test_flagWrite_refused : refusal (serve (.flagWrite 3 1) State.reset) = some (.flagSelInvalid 3) := by decide
theorem test_hostWrite : look (serve (.hostWrite 31 (lanesOf [7, 8])) State.reset) (fun t => (accAndReg 31 t).2) =
    some [7, 8, 0, 0, 0, 0, 0, 0] := by decide
theorem test_hostRead_refused : refusal (serve (.hostRead 32) State.reset) = some (.hostIndexOutOfRange 32) := by decide
/-- R163: the first field out of range in the order vd, vs, vt, e is named. -/
theorem test_refusal_order :
    refusal (exec (.vcr 3 99 2 16) State.reset) = some (.indexOutOfRange .vs 99) ∧
    refusal (exec (.vcr 32 99 40 16) State.reset) = some (.indexOutOfRange .vd 32) := by decide
/-- R42: lane 0 in the top bits, big-endian bytes. -/
theorem test_image_bytes : imageByte (lanesOf [0x0102, 0x0304]) 0 = 0x01#8 ∧ imageByte (lanesOf [0x0102,
      0x0304]) 3 = 0x04#8 := by
  decide

/-! ## Witnesses: the hypotheses of each statement can be met together -/

theorem witness_DecodeOfEncodeIsIdentity :
    (Instr.vmulf 31 31 31 15).wellFormed = true ∧ (Instr.vcr 0 0 0 0).wellFormed = true ∧ (Instr.cfc2 31 31).wellFormed = true := by
  decide

theorem witness_EncodeOfDecodeIsIdentity : decodeWord 0x4BFFFFC0#32 = .ok (.vmulf 31 31 31 15) := by rfl

theorem witness_TableWordsDecodeByMatchAndMask :
    (0x26, Instr.vcr) ∈ functTable ∧ 0x4BFFFFE6#32 &&& 0xFE00003F#32 = 0x4A000000#32 ||| BitVec.ofNat 32 0x26 :=
  ⟨by simp [functTable], by decide⟩

/-- A word for the row clause of every operation's statement, its free fields all ones. -/
theorem witness_RowDecodes :
    ∀ f ∈ [0x00, 0x01, 0x04, 0x05, 0x06, 0x07, 0x08, 0x09, 0x0C, 0x0D, 0x0E, 0x0F, 0x24, 0x26],
      (0x4BFFFFC0#32 ||| BitVec.ofNat 32 f) &&& 0xFE00003F#32 = 0x4A000000#32 ||| BitVec.ofNat 32 f := by decide

/-- Function codes just beside the mapped ones, and words one bit away from the three formats. -/
theorem witness_OtherWordsAreRefusedByName :
    (∀ w ∈ [0x4A000002#32, 0x4A000010#32, 0x4BFFFFE5#32, 0x4A00003F#32],
      fieldAt w 25 7 = 37 ∧ ∀ row ∈ functTable, fieldAt w 0 6 ≠ row.1) ∧
    (∀ w ∈ [0x00000000#32, 0x48C80001#32, 0x48880000#32, 0x49FFFFFF#32, 0x4C000000#32],
      fieldAt w 25 7 ≠ 37 ∧ w &&& 0xFFE007FF#32 ≠ 0x48C00000#32 ∧ w &&& 0xFFE007FF#32 ≠ 0x48400000#32) :=
  ⟨by simp [functTable, fieldAt], by simp [fieldAt]⟩

theorem witness_FlagPortWordsDriveThePort :
    (0x48C81000#32 &&& 0xFFE007FF#32 = 0x48C00000#32 ∧ fieldAt 0x48C81000#32 11 5 = 2) ∧
    (0x48C81800#32 &&& 0xFFE007FF#32 = 0x48C00000#32 ∧ 3 ≤ fieldAt 0x48C81800#32 11 5) ∧
    (0x484B0800#32 &&& 0xFFE007FF#32 = 0x48400000#32 ∧ fieldAt 0x484B0800#32 11 5 < 3 ∧
      serve (.flagRead (fieldAt 0x484B0800#32 11 5)) State.reset =
        .next { State.reset with replies := State.reset.replies ++ [.flag .vcc 0#32] }) ∧
    (0x485FF800#32 &&& 0xFFE007FF#32 = 0x48400000#32 ∧ 3 ≤ fieldAt 0x485FF800#32 11 5) :=
  ⟨by decide, by decide, ⟨by decide, by decide, rfl⟩, by decide⟩

theorem witness_StepRunsDecodedInstruction :
    ((State.reset.withFetchWord 32 0x4A4208C8).requests = .word 0x4A4208C8#32 :: [] ∧
      decodeWord 0x4A4208C8#32 = .ok (.vmacf 3 1 2 2)) ∧ (Instr.vmacf 3 1 2 2).wellFormed = true :=
  ⟨⟨rfl, rfl⟩, by decide⟩

theorem witness_StepServesOldestRequestOrHolds :
    ({ State.reset with requests := [.flagWrite 0 5#32, .flagRead 0] } : State).requests = .flagWrite 0 5#32 :: [.flagRead 0] ∧
    State.reset.requests = [] := ⟨rfl, rfl⟩

theorem witness_RequestsTakeEffectInIssueOrder :
    Sys2Proof.core.run [Request.flagWrite 0 5#32].length { State.reset with requests := [.flagWrite 0 5#32] } =
      .next { State.reset with vco := 5#16 } := rfl

theorem witness_RefusalDependsOnRequestAlone : serve (.flagRead 3) State.reset = .refused (.flagSelInvalid 3) := rfl

theorem witness_ValidRequestsCompleteOthersAreRefused :
    (∀ q ∈ [Request.word 0x4A4208C8#32, .instr (.vcl 31 31 31 15), .flagRead 2, .hostRead 31],
      validRequest q = true) ∧
    (∀ q ∈ [Request.word 0x48C81800#32, .instr (.vcl 31 31 31 16), .flagRead 3, .hostRead 32],
      validRequest q = false) := by decide

/-- One request for each clause, at the first value out of range. -/
theorem witness_OperandRefusalNamesFirstField :
    Instr.vmadh ∈ vuOps ∧ 32 ≤ 32 ∧ (31 < 32 ∧ 32 ≤ 32) ∧ (31 < 32 ∧ 31 < 32 ∧ 32 ≤ 32) ∧
    (31 < 32 ∧ 31 < 32 ∧ 31 < 32 ∧ 16 ≤ 16) := ⟨by simp [vuOps], by decide⟩

theorem witness_InvalidFlagSelectIsRefused : 3 ≤ 3 ∧ 3 ≤ (3 : RegIx).val ∧ 3 ≤ (31 : RegIx).val := by decide

theorem witness_HostPortMovesWholeRegisters : 32 ≤ 32 := by decide

theorem witness_ValidQueueRunsToCompletion :
    allValid { State.reset with requests := [.hostWrite 1 (lanesOf [1]), .instr (.vmudh 2 1 1 0), .flagRead 1] } = true := by decide

/-- One state for each clause on the oldest request: FlagRead of VCE, HostReadVR(31), a FlagWrite, none. -/
theorem witness_StepKeepsReturnedFlagValuesInWidth :
    (repliesFit { State.reset with requests := [.flagRead 2], vce := 0xFF, replies := [.flag .vco 0xFFFF] } = true ∧
      (2, FlagReg.vce, 8) ∈ flagTable ∧
      step { State.reset with requests := [.flagRead 2], vce := 0xFF, replies := [.flag .vco 0xFFFF] } =
        .next { State.reset with vce := 0xFF, replies := [.flag .vco 0xFFFF, .flag .vce 0xFF] }) ∧
    (repliesFit { State.reset with requests := [.hostRead 31] } = true ∧
      step { State.reset with requests := [.hostRead 31] } =
        .next { State.reset with replies := [.vector 31 (State.reset.vr.get 31)] }) ∧
    (repliesFit { State.reset with requests := [.flagWrite 0 5] } = true ∧
      step { State.reset with requests := [.flagWrite 0 5] } = .next { State.reset with vco := 5 }) ∧
    (repliesFit State.reset = true ∧ step State.reset = .next State.reset) :=
  ⟨⟨by decide, by decide, rfl⟩, ⟨by decide, rfl⟩, ⟨by decide, rfl⟩, by decide, rfl⟩

theorem witness_SwizzleFollowsLaneTable : (0 : Fin 16) ≠ 1 ∧ (2 : Fin 16) ≠ 1 ∧ (15 : Fin 16) ≠ 1 := by decide

/-- The two bounds, and the values just outside them. -/
theorem witness_SignedClampMidSaturatesToInt16 :
    sint32 0xFFFF 0x8000 = -32768 ∧ sint32 0x0000 0x7FFF = 32767 ∧ sint32 0xFFFF 0x7FFF = -32769 ∧ sint32 0x0000 0x8000 = 32768 := by
  decide

/-- The two bounds, and the values just outside them. -/
theorem witness_SignedClampLowSaturatesOn48Bits :
    sint48 (joinAcc 0xFFFF 0x8000 0x0000) = -2 ^ 31 ∧ sint48 (joinAcc 0x0000 0x7FFF 0xFFFF) = 2 ^ 31 - 1 ∧
    sint48 (joinAcc 0xFFFF 0x7FFF 0xFFFF) = -2 ^ 31 - 1 ∧ sint48 (joinAcc 0x0000 0x8000 0x0000) = 2 ^ 31 := by decide

theorem witness_AccAddWrapsAndEqualsWordForm :
    (-2 ^ 31 : Int) ≤ -2 ^ 31 ∧ (-2 ^ 31 : Int) < 2 ^ 32 ∧ (-2 ^ 31 : Int) ≤ 2 ^ 32 - 1 ∧ (2 ^ 32 - 1 : Int) < 2 ^ 32 := by decide

theorem witness_LaneLoopsEqualAllLanesAtOnce : (List.finRange 8).reverse.Perm (List.finRange 8) := List.reverse_perm _

/-- Lane 0 is the corner and lane 1 is not. -/
theorem witness_VmulfMultipliesRoundsAndClamps :
    let s := st [0x8000, 0x8000] [0x8000, 0x7FFF]
    (s.lane 1 0 = 0x8000#16 ∧ s.lane 2 (swz Config.pSwz1 0 0) = 0x8000#16) ∧
    ¬(s.lane 1 1 = 0x8000#16 ∧ s.lane 2 (swz Config.pSwz1 0 1) = 0x8000#16) := by decide

/-- Lane 0 is the corner with high word 0, lane 1 has high word 0xFFFF. -/
theorem witness_VmuluMultipliesAndClampsUnsigned :
    Config.pUClamp = .doc ∧
    (st [0x8000, 0x8000] [0x8000, 0x7FFF]).lane 1 0 = 0x8000#16 ∧ (st [0x8000, 0x8000] [0x8000,
      0x7FFF]).lane 2 0 = 0x8000#16 ∧
    look (exec (.vmulu 3 1 2 0) (st [0x8000, 0x8000] [0x8000, 0x7FFF])) (fun t => (t.accH.get 0, t.accH.get 1)) =
      some (0x0000#16, 0xFFFF#16) := by decide

theorem witness_VmudhWritesSignedProductHigh :
    sint16 ((st [0, 5] [5, 5]).lane 1 0) * sint16 ((st [0, 5] [5, 5]).lane 2 (swz Config.pSwz1 0 0)) = 0 := by decide

theorem witness_VmacfAccumulatesDoubledProduct :
    (st [0x8000] [0x8000]).acc 0 = 0#48 ∧ (st [0x8000] [0x8000]).lane 1 0 = 0x8000#16 ∧
    (st [0x8000] [0x8000]).lane 2 (swz Config.pSwz1 0 0) = 0x8000#16 := by decide

/-- Lanes 0 to 3 meet the four clauses, each at an end of its range: -1, 2^32, 2^31 and 2^32 - 1, 2^31 - 1. -/
theorem witness_VmacuAccumulatesAndClampsUnsigned :
    Config.pUClamp = .doc ∧
    look (exec (.vmacu 3 1 2 0) (st [] [] [0xFFFFFFFFFFFF, 0x100000000, 0x80000000, 0x7FFFFFFF, 0xFFFFFFFF, 0]))
      (fun t => (List.finRange 6).map fun i => sint48 (t.acc ⟨i.val, by omega⟩)) =
      some [-1, 2 ^ 32, 2 ^ 31, 2 ^ 31 - 1, 2 ^ 32 - 1, 0] := by decide

/-- The whole accumulator is zero, and a pair of partners. -/
theorem witness_AccumulateFromZeroEqualsMultiply :
    (∀ i : LaneIx, (st [1, 0x8000] [2, 0x8000]).acc i = 0#48) ∧ (Instr.vmadh, Instr.vmudh) ∈ accumulatePartners :=
  ⟨by decide, by simp [accumulatePartners]⟩

theorem witness_TwoVmacfFromZeroAddUp :
    (3 : RegIx) ≠ 1 ∧ (3 : RegIx) ≠ 2 ∧ (st [0x8000] [0x8000]).acc 0 = 0#48 := by decide

theorem witness_ZeroOperandMultiplyDefinesAccumulator :
    (∀ i : LaneIx, (st [0x8000, 5] [] [77]).lane 2 i = 0#16) ∧
    Instr.vmudh ∈ ([.vmudl, .vmudm, .vmudn, .vmudh] : List (Nat → Nat → Nat → Nat → Instr)) ∧
    Instr.vmulu ∈ ([.vmulf, .vmulu] : List (Nat → Nat → Nat → Nat → Instr)) := ⟨by decide, by simp, by simp⟩

/-- VT at 0 and at its largest value, with VS on both sides of 0. -/
theorem witness_VcrClipsToOnesComplementRange :
    let s := st [0, 0xFFFF, 0x7FFF, 0x8000] [0, 0, 0x7FFF, 0x7FFF]
    (∀ i : LaneIx, 0 ≤ sint16 (s.lane 2 (swz Config.pSwz1 0 i))) ∧
    0 ≤ sint16 (s.lane 1 0) ∧ sint16 (s.lane 1 1) < 0 ∧ 0 ≤ sint16 (s.lane 1 2) ∧ sint16 (s.lane 1 3) < 0 := by decide

theorem witness_VclWithVcoClearIsUnsignedMinimum :
    (st [0, 0x7FFF] [0, 0x7FFF]).vco = 0#16 ∧ 0 ≤ sint16 ((st [0, 0x7FFF] [0, 0x7FFF]).lane 1 1) ∧
    0 ≤ sint16 ((st [0, 0x7FFF] [0, 0x7FFF]).lane 2 (swz Config.pSwz1 0 1)) := by decide

theorem witness_Ctc2ReplacesOneFlagRegisterWhole :
    0x48DFF800#32 &&& 0xFFE007FF#32 = 0x48C00000#32 ∧ 3 ≤ (3 : RegIx).val ∧ 3 ≤ (31 : RegIx).val := by decide

theorem witness_Cfc2ReadsOneFlagRegisterZeroExtended :
    0x485FF800#32 &&& 0xFFE007FF#32 = 0x48400000#32 ∧ 3 ≤ (3 : RegIx).val ∧ 3 ≤ (31 : RegIx).val := by decide

theorem witness_FlagWriteThenReadReturnsValueCut : (2, FlagReg.vce, 8) ∈ flagTable ∧ (2 : RegIx).val = 2 := by decide

/-- Two states that agree on lane 0 and differ in every other lane. -/
theorem witness_LanesAreIndependent :
    let s := st [1, 2, 3, 4, 5, 6, 7, 8] [9, 2, 3, 4, 5, 6, 7, 8] [7]
    let s' := { st [1, 3, 4, 5, 6, 7, 8, 9] [9, 5, 6, 7, 8, 9, 1, 2] [7, 1, 1, 1, 1, 1, 1, 1] with vco := 0xFEFE, vce := 0xFE }
    Instr.vcl ∈ vuOps ∧ s.lane 1 0 = s'.lane 1 0 ∧ s.lane 2 (swz Config.pSwz1 0 0) = s'.lane 2 (swz Config.pSwz1 0 0) ∧
    s.acc 0 = s'.acc 0 ∧ laneFlags s 0 = laneFlags s' 0 := ⟨by simp [vuOps], by decide⟩

theorem witness_RequestsWriteOnlyTheirDestinations :
    (serve (.flagWrite 0 5#32) State.reset = .next { State.reset with vco := 5#16 }) ∧
    Piece.vcc ∉ requestWrites (.flagWrite 0 5#32) ∧ Piece.vr 31 ∉ requestWrites (.flagWrite 0 5#32) :=
  ⟨rfl, by decide, by decide⟩

/-- Two states that differ in all a multiply does not read; with e = 9, also in every lane of VR[2] but lane 1. -/
theorem witness_OutcomeDependsOnlyOnPiecesRead :
    sameOn (requestReads (.instr (.vmulf 3 1 2 0))) (st [1, 2] [3, 4] [5])
      { st [1, 2] [3, 4] [6] with vco := 1, vcc := 2, vce := 3 } ∧
    (Instr.vmulf ∈ vuOps ∧ (st [1, 2] [3, 4] [5]).vr.get 1 = (st [1, 2] [8, 4, 8, 8, 8, 8, 8, 8] [6]).vr.get 1 ∧
      (∀ i : LaneIx, (st [1, 2] [3, 4] [5]).lane 2 (swz Config.pSwz1 9 i) =
        (st [1, 2] [8, 4, 8, 8, 8, 8, 8, 8] [6]).lane 2 (swz Config.pSwz1 9 i)) ∧
      ∀ p ∈ instrReads (.vmulf 3 1 2 9), (∀ r, p ≠ .vr r) →
        samePiece (st [1, 2] [3, 4] [5]) (st [1, 2] [8, 4, 8, 8, 8, 8, 8, 8] [6]) p) := by
  refine ⟨?_, by simp [vuOps], rfl, by decide, ?_⟩
  · intro p hp
    simp only [requestReads, instrReads, vrPieces] at hp
    fin_cases hp <;> rfl
  · intro p hp hr
    simp only [instrReads, vrPieces] at hp
    fin_cases hp
    · exact absurd rfl (hr 1)
    · exact absurd rfl (hr 2)

theorem witness_DefinedProgramsIgnoreInitState :
    let qs : List Request := [.hostWrite 1 (lanesOf [5]), .instr (.vmulf 3 1 1 0), .instr (.ctc2 8 0), .hostRead 3,
      .flagRead 0]
    qs.all validRequest = true ∧ readsDefined gprPieces qs = true := by decide

/-- A boot for the first clause: it reads only pieces it wrote and writes every piece. -/
theorem witness_BootSequenceErasesInitState :
    let boot := bootRegisters (List.finRange 32) (fun _ => lanesOf [1]) ++ bootAccumulator .vmudh 0 1 2 3 ++ bootFlagWrites 1 2 3
    boot.all validRequest = true ∧ readsDefined gprPieces boot = true ∧ ∀ p ∈ allPieces,
      p ∈ knownAfter gprPieces boot := by
  decide +kernel

/-- An order of the registers, a multiply and an order of the FlagWrites for the other clauses. -/
theorem witness_BootSequenceErasesInitState_orders :
    (List.finRange 32).reverse.Perm (List.finRange 32) ∧ Instr.vmulf ∈ mulOps ∧
    [Request.flagWrite 2 3, .flagWrite 1 2, .flagWrite 0 1].Perm (bootFlagWrites 1 2 3) :=
  ⟨List.reverse_perm _, by simp [mulOps], List.reverse_perm (bootFlagWrites 1 2 3)⟩

theorem witness_StepKeepsQueueValid :
    allValid { State.reset with requests := [.word 0x4A4208C8, .flagRead 2, .hostRead 31] } = true := by decide

/-- Two states that differ in VCC and VCE, which a VCR does not read. -/
theorem witness_StepKeepsAgreementOnKnownPieces :
    let s : State := { st [1, 2] [3, 4] with requests := [.instr (.vcr 3 1 2 0)] }
    let s' : State := { st [1, 2] [3, 4] with vcc := 7, vce := 9, requests := [.instr (.vcr 3 1 2 0)] }
    s.requests = .instr (.vcr 3 1 2 0) :: [] ∧ s'.requests = .instr (.vcr 3 1 2 0) :: [] ∧ s.replies = s'.replies ∧
    validRequest (.instr (.vcr 3 1 2 0)) = true ∧
    (∀ p ∈ requestReads (.instr (.vcr 3 1 2 0)), p ∈ [Piece.vr 1, .vr 2, .accL]) ∧
    sameOn [Piece.vr 1, .vr 2, .accL] s s' := by
  refine ⟨rfl, rfl, rfl, by decide, by decide, ?_⟩
  intro p hp
  fin_cases hp <;> rfl


end Sys2Proof.Machine.Tests
end

section
/-! What serving a request leaves unchanged (spec/10_state.md R22, R25, R29; spec/42_accumulate.md R116;
spec/43_compare_select.md R134): the frame of each write, of each instruction and of each request. -/

namespace Sys2Proof.Machine

/-! ## The frame of each write of a shared operation -/

/-- A write of one vector register changes that register and nothing else (R22). -/
theorem writeVR_sameOutside (s : State) (r : RegIx) (v : Lanes) : sameOutside [.vr r] s (s.writeVR r v) := by
  refine ⟨fun p hp => ?_, rfl, rfl⟩
  cases p with
  | vr q =>
    have hq : q ≠ r := fun e => hp (by simp [e])
    exact (vr_writeVR_other s hq v).symm
  | accL | accM | accH | vco | vcc | vce | gpr => rfl

/-- A write of one scalar register changes that register and nothing else (R55). -/
theorem writeGPR_sameOutside (s : State) (r : RegIx) (v : Word) : sameOutside [.gpr r] s (s.writeGPR r v) := by
  refine ⟨fun p hp => ?_, rfl, rfl⟩
  cases p with
  | gpr q =>
    have hq : q ≠ r := fun e => hp (by simp [e])
    exact (get_set_other s.gpr hq v).symm
  | vr | accL | accM | accH | vco | vcc | vce => rfl

/-- Returning a value changes no piece of state. -/
theorem samePiece_reply (s : State) (r : Reply) (p : Piece) : samePiece s (s.reply r) p := by
  cases p <;> rfl

/-- The pieces a flag select names, when it names a register. -/
theorem selPieces_of_flagReg? {sel : Nat} {reg : FlagReg} (h : flagReg? sel = some reg) :
    selPieces sel = [flagPiece reg] := by
  simp [selPieces, h]

/-- A `FlagWrite` that completes changes the register it selects and nothing else (R150, R152). -/
theorem flagWrite_sameOutside {sel : Nat} {v : Word} {s t : State} (h : flagWrite sel v s = .next t) :
    sameOutside (selPieces sel) s t := by
  rcases flagWrite_cases sel v s with ⟨reg, hreg, hrun⟩ | ⟨-, hrun⟩
  · cases hrun.symm.trans h
    rw [selPieces_of_flagReg? hreg]
    exact writeFlag_sameOutside s reg v
  · cases hrun.symm.trans h

/-- A `HostWriteVR` that completes changes the register it names and nothing else (R41). -/
theorem hostWriteVR_sameOutside {r : Nat} {v : Lanes} {s t : State} (h : hostWriteVR r v s = .next t) :
    sameOutside (vrPieces r) s t := by
  rcases hostWriteVR_cases r v s with ⟨q, rfl, hrun⟩ | ⟨-, hrun⟩
  · cases hrun.symm.trans h
    rw [vrPieces_fin]
    exact writeVR_sameOutside s q v
  · cases hrun.symm.trans h

/-! ## The frame of each shape of operation -/

/-- An operation that completes keeps the frame its run keeps on operands in range. -/
theorem withOperands_sameOutside {vd vs vt e : Nat} {run : Operands → State} {s t : State} {ps : List Piece}
    (hrun : ∀ o : Operands, sameOutside (.vr o.vd :: ps) s (run o)) (h : withOperands vd vs vt e run = .next t) :
    sameOutside (vrPieces vd ++ ps) s t := by
  obtain ⟨o, rfl, -, -, -, rfl⟩ := withOperands_next h
  rw [vrPieces_fin]
  exact hrun o

/-- The multiplies and multiply-accumulates but VMADH write `VR[vd]` and the whole accumulator (R96, R116). -/
theorem withOperands_accumulatorOp_sameOutside {vd vs vt e : Nat} {f : AccLane → Lane → Lane → AccLane}
    {g : Lane → Lane → Lane → Lane} {s t : State}
    (h : withOperands vd vs vt e (fun o => accumulatorOp o f g s) = .next t) :
    sameOutside (vrPieces vd ++ [.accL, .accM, .accH]) s t := by
  refine withOperands_sameOutside (fun o => ?_) h
  obtain ⟨-, -, hframe⟩ := accumulatorOp_spec o f g s
  exact hframe

/-- VMADH writes `VR[vd]` and the high and mid words, and keeps `ACC_L` (R115, R116). -/
theorem withOperands_accumulatorHighMidOp_sameOutside {vd vs vt e : Nat} {fh fm : Lane → Lane → Lane → Lane → Lane}
    {g : Lane → Lane → Lane} {s t : State}
    (h : withOperands vd vs vt e (fun o => accumulatorHighMidOp o fh fm g s) = .next t) :
    sameOutside (vrPieces vd ++ [.accM, .accH]) s t := by
  refine withOperands_sameOutside (fun o => ?_) h
  obtain ⟨-, -, -, hframe⟩ := accumulatorHighMidOp_spec o fh fm g s
  exact hframe

/-- VCL and VCR write `VR[vd]`, `ACC_L` and the three flag registers (R134). -/
theorem withOperands_compareSelectOp_sameOutside {vd vs vt e : Nat} {c : Operands → LaneIx → LaneChoice} {s t : State}
    (h : withOperands vd vs vt e (fun o => compareSelectOp o (c o) s) = .next t) :
    sameOutside (vrPieces vd ++ [.accL, .vco, .vcc, .vce]) s t := by
  refine withOperands_sameOutside (fun o => ?_) h
  obtain ⟨-, -, -, -, -, -, hframe⟩ := compareSelectOp_spec o (c o) s
  exact hframe

/-- A next state of a `FlagRead` is what `store` makes of the value of a selected register (R151, R152). -/
theorem flagRead_next {sel : Nat} {store : FlagReg → Word → State} {s t : State} (h : flagRead sel store s = .next t) :
    ∃ reg, flagReg? sel = some reg ∧ t = store reg (s.readFlag reg) := by
  rcases flagRead_cases sel store s with ⟨reg, hreg, hrun⟩ | ⟨-, hrun⟩
  · cases hrun.symm.trans h
    exact ⟨reg, hreg, rfl⟩
  · cases hrun.symm.trans h

/-- A CFC2 that completes changes `GPR[rt]` and nothing else (R55, R151). -/
theorem execCfc2_sameOutside {rt rd : RegIx} {s t : State} (h : execCfc2 rt rd s = .next t) :
    sameOutside [.gpr rt] s t := by
  obtain ⟨_, -, rfl⟩ := flagRead_next h
  exact writeGPR_sameOutside s rt _

/-! ## The frame of an instruction and of a request -/

/-- An instruction that completes changes only the pieces of its row, and returns no value (R25, R29, R55). -/
theorem exec_sameOutside {i : Instr} {s t : State} (h : exec i s = .next t) : sameOutside (instrWrites i) s t := by
  cases i with
  | vmulf | vmulu | vmudl | vmudm | vmudn | vmudh | vmacf | vmacu | vmadl | vmadm | vmadn =>
    exact withOperands_accumulatorOp_sameOutside h
  | vmadh => exact withOperands_accumulatorHighMidOp_sameOutside h
  | vcl vd vs vt e =>
    exact withOperands_compareSelectOp_sameOutside
      (c := fun o i =>
        vclLane (s.vsLane o i) (s.vtLane o i) (s.carry i) (s.eqFlag i) (s.lePrev i) (s.gePrev i) (s.ce i)) h
  | vcr vd vs vt e =>
    exact withOperands_compareSelectOp_sameOutside (c := fun o i => vcrLane (s.vsLane o i) (s.vtLane o i)) h
  | ctc2 => exact flagWrite_sameOutside h
  | cfc2 => exact execCfc2_sameOutside h

/-- A word that completes is one that decodes, and its instruction then completes (R60). -/
theorem runWord_next {w : Word} {s t : State} (h : runWord w s = .next t) :
    ∃ i, decodeWord w = .ok i ∧ exec i s = .next t := by
  cases hd : decodeWord w with
  | ok i => exact ⟨i, rfl, by simpa [runWord, hd] using h⟩
  | error r => simp [runWord, hd] at h

/-- Everything a request that completes can do to the state: write pieces of its row and return nothing, or return one value
and write nothing (R46). -/
theorem serve_next_cases {q : Request} {s t : State} (h : serve q s = .next t) :
    sameOutside (requestWrites q) s t ∨ ∃ r, t = s.reply r := by
  cases q with
  | word w =>
    obtain ⟨i, hdecode, hexec⟩ := runWord_next h
    have hwrites : requestWrites (.word w) = instrWrites i := by simp [requestWrites, hdecode]
    exact .inl (hwrites ▸ exec_sameOutside hexec)
  | instr i => exact .inl (exec_sameOutside h)
  | flagWrite sel v => exact .inl (flagWrite_sameOutside h)
  | flagRead sel =>
    obtain ⟨_, -, rfl⟩ := flagRead_next (store := fun reg v => s.reply (.flag reg v)) h
    exact .inr ⟨_, rfl⟩
  | hostWrite r v => exact .inl (hostWriteVR_sameOutside h)
  | hostRead r =>
    rcases hostReadVR_cases r s with ⟨q, -, hrun⟩ | ⟨-, hrun⟩
    · cases hrun.symm.trans h
      exact .inr ⟨_, rfl⟩
    · cases hrun.symm.trans h

/-- Settles O50: it holds, by the two ways in which a request completes. -/
theorem requestsWriteOnlyTheirDestinations : Obligations.RequestsWriteOnlyTheirDestinations := by
  intro q s t h
  rcases serve_next_cases h with ⟨hpieces, hrequests, hreplies⟩ | ⟨r, rfl⟩
  · exact ⟨hpieces, hrequests, [], by simp [hreplies], by simp⟩
  · exact ⟨fun p _ => samePiece_reply s r p, rfl, [r], rfl, by simp⟩

end Sys2Proof.Machine
end

section
/-! The ordering of requests (spec/20_memory.md R46), the host register port (R41) and the register image (R42): a step serves
the oldest request, and what a request does to the rest of the state does not depend on the requests behind it. -/

namespace Sys2Proof.Machine

open Host (Outcome)

/-! ## One step -/

/-- A step takes the oldest request and serves it (R46). -/
theorem step_of_requests_cons {s : State} {q : Request} {rest : List Request} (h : s.requests = q :: rest) :
    step s = serve q { s with requests := rest } := by
  rcases step_cases s with ⟨hnil, -⟩ | ⟨q', rest', hcons, hstep⟩
  · rw [h] at hnil
    cases hnil
  · rw [h] at hcons
    cases hcons
    exact hstep

/-- With no request pending a step holds every piece of state (R175). -/
theorem step_of_requests_nil {s : State} (h : s.requests = []) : step s = .next s := by
  rcases step_cases s with ⟨-, hstep⟩ | ⟨q, rest, hcons, -⟩
  · exact hstep
  · rw [h] at hcons
    cases hcons

/-- Settles O8: it holds, by the two things a step can do. -/
theorem stepServesOldestRequestOrHolds : Obligations.StepServesOldestRequestOrHolds :=
  fun _ => ⟨fun _ _ => step_of_requests_cons, step_of_requests_nil⟩

/-! ## Words that decode -/

/-- The decoder reads back the fields of a COP2-VU word (R52, R53, R54). -/
theorem decodeWord_vuWord {funct : BitVec 6} {mk : Nat → Nat → Nat → Nat → Instr} (hmk : functMap funct = some mk)
    {vd vs vt e : Nat} (h : operandsInRange vd vs vt e = true) :
    decodeWord (vuWord funct vd vs vt e) = .ok (mk vd vs vt e) := by
  have hfunct := funct.isLt
  have hword := vuWord_toNat funct vd vs vt e
  simp only [operandsInRange, Bool.and_eq_true, decide_eq_true_eq] at h
  obtain ⟨⟨⟨hvd, hvs⟩, hvt⟩, he⟩ := h
  rw [decodeWord_vu hmk (by omega) (by omega), regField_val, regField_val, regField_val, elementField_eq]
  congr 2 <;> omega

/-- The register fields of a flag-port word are `rt` and `rd` (R55). -/
theorem regField_moveWord (tag : BitVec 11) (rt rd : RegIx) :
    regField (moveWord tag rt rd) 16 = rt ∧ regField (moveWord tag rt rd) 11 = rd := by
  have hword := moveWord_toNat tag rt rd
  constructor <;> apply Fin.ext <;> rw [regField_val] <;> omega

/-- The decoder reads back the fields of a CTC2 word (R55). -/
theorem decodeWord_moveWord_ctc2 (rt rd : RegIx) : decodeWord (moveWord ctc2Tag rt rd) = .ok (.ctc2 rt rd) := by
  have hword := moveWord_toNat ctc2Tag rt rd
  have htag : ctc2Tag.toNat = 582 := rfl
  obtain ⟨hrt, hrd⟩ := regField_moveWord ctc2Tag rt rd
  rw [decodeWord_ctc2 (by omega) (by omega), hrt, hrd]

/-- The decoder reads back the fields of a CFC2 word (R55). -/
theorem decodeWord_moveWord_cfc2 (rt rd : RegIx) : decodeWord (moveWord cfc2Tag rt rd) = .ok (.cfc2 rt rd) := by
  have hword := moveWord_toNat cfc2Tag rt rd
  have htag : cfc2Tag.toNat = 578 := rfl
  obtain ⟨hrt, hrd⟩ := regField_moveWord cfc2Tag rt rd
  rw [decodeWord_cfc2 (by omega) (by omega), hrt, hrd]

/-- Decoding undoes encoding, for every well-formed instruction (R52, R55, R60). -/
theorem decodeWord_encode {i : Instr} (h : i.wellFormed = true) : decodeWord (encode i) = .ok i := by
  cases i with
  | ctc2 rt rd => exact decodeWord_moveWord_ctc2 rt rd
  | cfc2 rt rd => exact decodeWord_moveWord_cfc2 rt rd
  | vmulf | vmulu | vmudl | vmudm | vmudn | vmudh | vmacf | vmacu | vmadl | vmadm | vmadn | vmadh | vcl | vcr =>
    exact decodeWord_vuWord rfl h

/-- Serving a word that decodes is running its instruction (R60). -/
theorem serve_word_of_decode {w : Word} {i : Instr} (h : decodeWord w = .ok i) (s : State) :
    serve (.word w) s = exec i s := by
  simp [serve, runWord, h]

/-- Settles O7: it holds, by the service of the oldest request and the round trip of the encoder. -/
theorem stepRunsDecodedInstruction : Obligations.StepRunsDecodedInstruction := by
  refine ⟨fun s w rest i hrequests hdecode => ?_, fun s i hwf => ?_⟩
  · rw [step_of_requests_cons hrequests, serve_word_of_decode hdecode]
  · have hword : BitVec.ofNat 32 ((encode i).toNat % 2 ^ 32) = encode i := by
      rw [Nat.mod_eq_of_lt (encode i).isLt, BitVec.ofNat_toNat, BitVec.setWidth_eq]
    have hrequests : (s.withFetchWord 32 (encode i).toNat).requests = .word (encode i) :: s.requests := by
      rw [State.withFetchWord_requests, hword]
    rw [step_of_requests_cons hrequests]
    exact serve_word_of_decode (decodeWord_encode hwf) s

/-! ## The host register port -/

theorem hostWriteVR_inRange (r : RegIx) (v : Lanes) (s : State) : hostWriteVR r.val v s = .next (s.writeVR r v) := by
  simp [hostWriteVR]

theorem hostReadVR_inRange (r : RegIx) (s : State) :
    hostReadVR r.val s = .next (s.reply (.vector r (s.vr.get r))) := by
  simp [hostReadVR]

theorem hostWriteVR_outOfRange {r : Nat} (hr : 32 ≤ r) (v : Lanes) (s : State) :
    hostWriteVR r v s = .refused (.hostIndexOutOfRange r) := by
  simp [hostWriteVR, hr]

theorem hostReadVR_outOfRange {r : Nat} (hr : 32 ≤ r) (s : State) :
    hostReadVR r s = .refused (.hostIndexOutOfRange r) := by
  simp [hostReadVR, hr]

/-- Settles O14: it holds, by what the two transactions do in range and out of range and by the frame of a register write. -/
theorem hostPortMovesWholeRegisters : Obligations.HostPortMovesWholeRegisters := by
  refine ⟨fun r v s => ?_, hostReadVR_inRange, fun r v s hr => ?_⟩
  · exact ⟨s.writeVR r v, hostWriteVR_inRange r v s, get_set_same s.vr r v, writeVR_sameOutside s r v⟩
  · exact ⟨hostWriteVR_outOfRange hr v s, hostReadVR_outOfRange hr s⟩

/-! ## What a request does is the same whatever waits behind it -/

section otherRequests

variable {s t : State} (rs : List Request)

/-- Two runs that differ only in the pending requests give operations that differ only in them. -/
theorem withOperands_withRequests {vd vs vt e : Nat} {run run' : Operands → State}
    (hrun : ∀ o, run' o = { run o with requests := rs }) (h : withOperands vd vs vt e run = .next t) :
    withOperands vd vs vt e run' = .next { t with requests := rs } := by
  obtain ⟨o, rfl, rfl, rfl, rfl, rfl⟩ := withOperands_next h
  rw [withOperands_inRange, hrun]

theorem flagWrite_withRequests {sel : Nat} {v : Word} (h : flagWrite sel v s = .next t) :
    flagWrite sel v { s with requests := rs } = .next { t with requests := rs } := by
  rcases flagWrite_cases sel v s with ⟨reg, hreg, hrun⟩ | ⟨-, hrun⟩
  · cases hrun.symm.trans h
    cases reg <;> simp [flagWrite, hreg, State.writeFlag]
  · cases hrun.symm.trans h

theorem flagRead_withRequests {sel : Nat} {store store' : FlagReg → Word → State}
    (hstore : ∀ reg v, store' reg v = { store reg v with requests := rs }) (h : flagRead sel store s = .next t) :
    flagRead sel store' { s with requests := rs } = .next { t with requests := rs } := by
  obtain ⟨reg, hreg, rfl⟩ := flagRead_next h
  cases reg <;> simp [flagRead, hreg, hstore, State.readFlag]

theorem flagReadReply_withRequests {sel : Nat} (h : flagReadReply sel s = .next t) :
    flagReadReply sel { s with requests := rs } = .next { t with requests := rs } :=
  flagRead_withRequests rs (fun _ _ => rfl) h

theorem hostWriteVR_withRequests {r : Nat} {v : Lanes} (h : hostWriteVR r v s = .next t) :
    hostWriteVR r v { s with requests := rs } = .next { t with requests := rs } := by
  rcases hostWriteVR_cases r v s with ⟨q, rfl, hrun⟩ | ⟨-, hrun⟩
  · cases hrun.symm.trans h
    exact hostWriteVR_inRange q v _
  · cases hrun.symm.trans h

theorem hostReadVR_withRequests {r : Nat} (h : hostReadVR r s = .next t) :
    hostReadVR r { s with requests := rs } = .next { t with requests := rs } := by
  rcases hostReadVR_cases r s with ⟨q, rfl, hrun⟩ | ⟨-, hrun⟩
  · cases hrun.symm.trans h
    exact hostReadVR_inRange q _
  · cases hrun.symm.trans h

/-- An instruction neither reads nor changes the pending requests. -/
theorem exec_withRequests {i : Instr} (h : exec i s = .next t) :
    exec i { s with requests := rs } = .next { t with requests := rs } := by
  cases i with
  | vmulf | vmulu | vmudl | vmudm | vmudn | vmudh | vmacf | vmacu | vmadl | vmadm | vmadn | vmadh | vcl | vcr =>
    exact withOperands_withRequests rs (fun _ => rfl) h
  | ctc2 => exact flagWrite_withRequests rs h
  | cfc2 => exact flagRead_withRequests rs (fun _ _ => rfl) h

/-- A request neither reads nor changes the requests behind it (R46). -/
theorem serve_withRequests {q : Request} (h : serve q s = .next t) :
    serve q { s with requests := rs } = .next { t with requests := rs } := by
  cases q with
  | word w =>
    obtain ⟨i, hdecode, hexec⟩ := runWord_next h
    rw [serve_word_of_decode hdecode]
    exact exec_withRequests rs hexec
  | instr => exact exec_withRequests rs h
  | flagWrite => exact flagWrite_withRequests rs h
  | flagRead => exact flagReadReply_withRequests rs h
  | hostWrite => exact hostWriteVR_withRequests rs h
  | hostRead => exact hostReadVR_withRequests rs h

end otherRequests

/-! ## Runs -/

theorem run_succ_of_step {s t : State} (h : step s = .next t) (n : Nat) :
    Sys2Proof.core.run (n + 1) s = Sys2Proof.core.run n t := by
  rw [run_succ, h]

/-- A run of `n + 1` steps that completes has a first step, which completes. -/
theorem run_succ_next {n : Nat} {s t : State} (h : Sys2Proof.core.run (n + 1) s = .next t) :
    ∃ u, step s = .next u ∧ Sys2Proof.core.run n u = .next t := by
  rw [run_succ] at h
  cases hstep : step s with
  | next u => exact ⟨u, rfl, by rwa [hstep] at h⟩
  | fault r => rw [hstep] at h; cases h
  | refused r => rw [hstep] at h; cases h

/-- Settles O9: it holds, by induction on the earlier requests; each is served alike with and without the later ones behind
it. -/
theorem requestsTakeEffectInIssueOrder : Obligations.RequestsTakeEffectInIssueOrder := by
  intro s t a b n hrun
  induction a generalizing s with
  | nil =>
    cases hrun
    rw [List.length_nil, Nat.zero_add, List.nil_append]
  | cons q a ih =>
    obtain ⟨u, hserve, hrest⟩ := run_succ_next hrun
    rw [step_cons] at hserve
    have hu : { u with requests := a } = u := Outcome.next.inj ((serve_withRequests a hserve).symm.trans hserve)
    have hlater := (step_cons s q (a ++ b)).trans (serve_withRequests (s := { s with requests := a }) (a ++ b) hserve)
    rw [List.length_cons, Nat.add_right_comm, List.cons_append, run_succ_of_step hlater]
    exact ih u (by rwa [hu])

/-! ## The register image -/

/-- A bit of the image as a bit of the appended lanes, at the width the library's `append` lemmas read. -/
theorem laneImage_getLsbD_eq_append (v : Lanes) (k : Nat) :
    (laneImage v).getLsbD k =
      (v.get 0 ++ v.get 1 ++ v.get 2 ++ v.get 3 ++ v.get 4 ++ v.get 5 ++ v.get 6 ++ v.get 7).getLsbD k := rfl

/-- Bit `j` of lane `i` is bit `112 - 16i + j` of the image (R42). -/
theorem laneImage_getLsbD (v : Lanes) (i : LaneIx) {j : Nat} (hj : j < 16) :
    (laneImage v).getLsbD (112 - 16 * i.val + j) = (v.get i).getLsbD j := by
  have hlow (c : Nat) (hc : 16 ≤ c) : ¬ j + c < 16 := by omega
  rw [laneImage_getLsbD_eq_append]
  simp only [BitVec.getLsbD_append, -Nat.reduceAdd]
  match i with
  | 0 | 1 | 2 | 3 | 4 | 5 | 6 | 7 => simp [hj, hlow, Nat.add_comm _ j]

/-- Image bits `[127-16i : 112-16i]` are lane `i` (R42). -/
theorem extractLsb'_laneImage (v : Lanes) (i : LaneIx) :
    (laneImage v).extractLsb' (112 - 16 * i.val) 16 = v.get i := by
  apply BitVec.eq_of_getLsbD_eq
  intro j hj
  rw [BitVec.getLsbD_extractLsb', laneImage_getLsbD v i hj]
  simp [hj]

/-- A 128-bit image is its eight 16-bit fields. -/
theorem image_ext {x y : BitVec 128}
    (h : ∀ i : LaneIx, x.extractLsb' (112 - 16 * i.val) 16 = y.extractLsb' (112 - 16 * i.val) 16) : x = y := by
  apply BitVec.eq_of_getLsbD_eq
  intro k hk
  have hbit := congrArg (·.getLsbD (k % 16)) (h ⟨7 - k / 16, by omega⟩)
  have hk' : 112 - 16 * (7 - k / 16) + k % 16 = k := by omega
  simpa [BitVec.getLsbD_extractLsb', Nat.mod_lt, hk'] using hbit

/-- Eight bits of a lane are eight bits of the image (R42). -/
theorem extractLsb'_lane (v : Lanes) (i : LaneIx) {lo : Nat} (hlo : lo ≤ 8) :
    (laneImage v).extractLsb' (112 - 16 * i.val + lo) 8 = (v.get i).extractLsb' lo 8 := by
  apply BitVec.eq_of_getLsbD_eq
  intro j hj
  rw [BitVec.getLsbD_extractLsb', BitVec.getLsbD_extractLsb', Nat.add_assoc, laneImage_getLsbD v i (by omega)]

/-- Byte `2i` is the upper byte of lane `i`: each lane is big-endian (R42). -/
theorem imageByte_even (v : Lanes) (i : LaneIx) : imageByte v ⟨2 * i.val, by omega⟩ = (v.get i).extractLsb' 8 8 := by
  have hpos : 120 - 8 * (2 * i.val) = 112 - 16 * i.val + 8 := by omega
  rw [← extractLsb'_lane v i (by omega), imageByte, hpos]

/-- Byte `2i + 1` is the lower byte of lane `i` (R42). -/
theorem imageByte_odd (v : Lanes) (i : LaneIx) :
    imageByte v ⟨2 * i.val + 1, by omega⟩ = (v.get i).extractLsb' 0 8 := by
  have hpos : 120 - 8 * (2 * i.val + 1) = 112 - 16 * i.val + 0 := by omega
  rw [← extractLsb'_lane v i (by omega), imageByte, hpos]

theorem lanesOfImage_get (x : BitVec 128) (i : LaneIx) :
    (lanesOfImage x).get i = x.extractLsb' (112 - 16 * i.val) 16 := laneMap_get _ i

/-- Settles O54: it holds, since the image is its eight fields and each field is a lane. -/
theorem registerImageIsBigEndianLanes : Obligations.RegisterImageIsBigEndianLanes := by
  refine ⟨fun v i => ⟨extractLsb'_laneImage v i, imageByte_even v i, imageByte_odd v i⟩, fun v => ?_, fun x => ?_⟩
  · exact lanes_ext fun i => by rw [lanesOfImage_get, extractLsb'_laneImage]
  · exact image_ext fun i => by rw [extractLsb'_laneImage, lanesOfImage_get]

end Sys2Proof.Machine
end

section
/-! The instruction words (spec/30_encoding.md R52 to R60): which words decode and to what, the round trip of the decoder and
the encoder, and what a word of each format does when it is served. -/

namespace Sys2Proof.Machine

/-! ## Fields of a word -/

theorem extractLsb'_eq_iff_fieldAt (w : Word) (lo len : Nat) (c : BitVec len) :
    w.extractLsb' lo len = c ↔ fieldAt w lo len = c.toNat := by
  rw [← BitVec.toNat_inj, extractLsb'_toNat_div, fieldAt]

theorem regField_eq_fieldAt (w : Word) (lo : Nat) : regField w lo = ⟨fieldAt w lo 5, fieldAt_lt w lo⟩ :=
  Fin.ext (regField_val w lo)

theorem elementField_eq_fieldAt (w : Word) : elementField w = fieldAt w 21 4 := elementField_eq w

/-- The fields of any word are in the ranges of R50. -/
theorem fieldAt_operandsInRange (w : Word) :
    operandsInRange (fieldAt w 6 5) (fieldAt w 11 5) (fieldAt w 16 5) (fieldAt w 21 4) = true := by
  have he : fieldAt w 21 4 < 16 := Nat.mod_lt _ (by decide)
  simp [operandsInRange, fieldAt_lt, he]

/-- The words of the CTC2 row, by match and mask (R55). -/
theorem ctc2Mask_iff (w : Word) :
    w &&& 0xFFE007FF#32 = 0x48C00000#32 ↔ w.toNat / 2 ^ 21 = 582 ∧ w.toNat % 2 ^ 11 = 0 :=
  moveMask_iff w 582 (by decide)

/-- The words of the CFC2 row, by match and mask (R55). -/
theorem cfc2Mask_iff (w : Word) :
    w &&& 0xFFE007FF#32 = 0x48400000#32 ↔ w.toNat / 2 ^ 21 = 578 ∧ w.toNat % 2 ^ 11 = 0 :=
  moveMask_iff w 578 (by decide)

/-! ## The table of function codes -/

theorem functMap_functTable {row : Nat × (Nat → Nat → Nat → Nat → Instr)} (hrow : row ∈ functTable) :
    functMap (BitVec.ofNat 6 row.1) = some row.2 := by
  revert row
  simp [functTable, functMap]

/-- The decoder's map of function codes is the table of R54: each arm of the map is a row, and each row an arm. -/
theorem functMap_eq_some_iff {funct : BitVec 6} {mk : Nat → Nat → Nat → Nat → Instr} :
    functMap funct = some mk ↔ (funct.toNat, mk) ∈ functTable := by
  constructor
  · intro h
    unfold functMap at h
    split at h <;> cases h <;> simp [functTable, *]
  · intro h
    simpa using functMap_functTable h

theorem functMap_eq_none_iff {funct : BitVec 6} :
    functMap funct = none ↔ ∀ row ∈ functTable, funct.toNat ≠ row.1 := by
  rw [Option.eq_none_iff_forall_ne_some]
  constructor
  · rintro h ⟨code, mk⟩ hrow rfl
    exact h mk (functMap_eq_some_iff.mpr hrow)
  · intro h mk hmk
    exact h _ (functMap_eq_some_iff.mp hmk) rfl

/-- A row's instruction is a COP2-VU word with the row's function code, well formed when its operands are in range (R50, R52). -/
theorem encode_functTable {row : Nat × (Nat → Nat → Nat → Nat → Instr)} (hrow : row ∈ functTable) (vd vs vt e : Nat) :
    encode (row.2 vd vs vt e) = vuWord (BitVec.ofNat 6 row.1) vd vs vt e ∧
    (row.2 vd vs vt e).wellFormed = operandsInRange vd vs vt e := by
  revert row
  simp [functTable, encode, Instr.wellFormed]

/-- A row's match word as a number: the COP2-VU tag and the function code (R54). -/
theorem rowMatch_eq {row : Nat × (Nat → Nat → Nat → Nat → Instr)} (hrow : row ∈ functTable) :
    row.1 < 64 ∧ 0x4A000000#32 ||| BitVec.ofNat 32 row.1 = BitVec.ofNat 32 (0x4A000000 + row.1) := by
  revert row
  simp [functTable]

/-! ## Every word: its format and what the decoder makes of it -/

/-- A COP2-VU word with a row's function code decodes to the row's operation, its four fields free (R53, R54). -/
theorem decodeWord_functTable {w : Word} {row : Nat × (Nat → Nat → Nat → Nat → Instr)} (hrow : row ∈ functTable)
    (htag : fieldAt w 25 7 = 37) (hfunct : fieldAt w 0 6 = row.1) :
    decodeWord w = .ok (row.2 (fieldAt w 6 5) (fieldAt w 11 5) (fieldAt w 16 5) (fieldAt w 21 4)) := by
  have hcode : (w.extractLsb' 0 6).toNat = row.1 := (extractLsb'_toNat_div w 0 6).trans hfunct
  have hmk : functMap (w.extractLsb' 0 6) = some row.2 := functMap_eq_some_iff.mpr (by rwa [hcode])
  have hw := w.isLt
  simp only [fieldAt] at htag hfunct
  rw [decodeWord_vu hmk (by omega) (by omega)]
  simp only [regField_eq_fieldAt, elementField_eq_fieldAt]

/-- A COP2-VU word with another function code is refused by that code (R57). -/
theorem decodeWord_functNotInBlock {w : Word} (htag : fieldAt w 25 7 = 37)
    (hfunct : ∀ row ∈ functTable, fieldAt w 0 6 ≠ row.1) :
    decodeWord w = .error (.functNotInBlock (w.extractLsb' 0 6)) := by
  have htag' : w.extractLsb' 25 7 = cop2VuTag := (extractLsb'_eq_iff_fieldAt w 25 7 cop2VuTag).mpr htag
  have hnone : functMap (w.extractLsb' 0 6) = none :=
    functMap_eq_none_iff.mpr (by rwa [extractLsb'_toNat_div])
  simp [decodeWord, htag', hnone]

theorem decodeWord_of_ctc2Mask {w : Word} (h : w &&& 0xFFE007FF#32 = 0x48C00000#32) :
    decodeWord w = .ok (.ctc2 (regField w 16) (regField w 11)) := by
  obtain ⟨htag, hzero⟩ := (ctc2Mask_iff w).mp h
  exact decodeWord_ctc2 htag hzero

theorem decodeWord_of_cfc2Mask {w : Word} (h : w &&& 0xFFE007FF#32 = 0x48400000#32) :
    decodeWord w = .ok (.cfc2 (regField w 16) (regField w 11)) := by
  obtain ⟨htag, hzero⟩ := (cfc2Mask_iff w).mp h
  exact decodeWord_cfc2 htag hzero

/-- A word of none of the three formats is refused (R58). -/
theorem decodeWord_notBlockWord {w : Word} (htag : fieldAt w 25 7 ≠ 37)
    (hctc2 : w &&& 0xFFE007FF#32 ≠ 0x48C00000#32) (hcfc2 : w &&& 0xFFE007FF#32 ≠ 0x48400000#32) :
    decodeWord w = .error .notBlockWord := by
  have hvu : w.extractLsb' 25 7 ≠ cop2VuTag := fun h => htag ((extractLsb'_eq_iff_fieldAt w 25 7 cop2VuTag).mp h)
  have hw := w.isLt
  rw [Ne, ctc2Mask_iff] at hctc2
  rw [Ne, cfc2Mask_iff] at hcfc2
  by_cases hzero : w.extractLsb' 0 11 = 0#11
  · have hzero' : fieldAt w 0 11 = 0 := (extractLsb'_eq_iff_fieldAt w 0 11 0#11).mp hzero
    have hmove (tag : BitVec 11) (h : ¬ (w.toNat / 2 ^ 21 = tag.toNat ∧ w.toNat % 2 ^ 11 = 0)) :
        w.extractLsb' 21 11 ≠ tag := by
      rw [Ne, extractLsb'_eq_iff_fieldAt]
      simp only [fieldAt] at hzero' ⊢
      omega
    simp [decodeWord, hvu, hzero, hmove ctc2Tag hctc2, hmove cfc2Tag hcfc2]
  · simp [decodeWord, hvu, hzero]

/-- A word that decodes is of one of the three formats, and decodes to its fields (R54, R55); by R57 and R58 every other word is
refused. -/
theorem decodeWord_ok_cases {w : Word} {i : Instr} (h : decodeWord w = .ok i) :
    (∃ row ∈ functTable, fieldAt w 25 7 = 37 ∧ fieldAt w 0 6 = row.1 ∧
      i = row.2 (fieldAt w 6 5) (fieldAt w 11 5) (fieldAt w 16 5) (fieldAt w 21 4)) ∨
    (w &&& 0xFFE007FF#32 = 0x48C00000#32 ∧ i = .ctc2 (regField w 16) (regField w 11)) ∨
    (w &&& 0xFFE007FF#32 = 0x48400000#32 ∧ i = .cfc2 (regField w 16) (regField w 11)) := by
  by_cases htag : fieldAt w 25 7 = 37
  · by_cases hfunct : ∃ row ∈ functTable, fieldAt w 0 6 = row.1
    · obtain ⟨row, hrow, hcode⟩ := hfunct
      cases (decodeWord_functTable hrow htag hcode).symm.trans h
      exact .inl ⟨row, hrow, htag, hcode, rfl⟩
    · push Not at hfunct
      cases (decodeWord_functNotInBlock htag hfunct).symm.trans h
  · by_cases hctc2 : w &&& 0xFFE007FF#32 = 0x48C00000#32
    · cases (decodeWord_of_ctc2Mask hctc2).symm.trans h
      exact .inr (.inl ⟨hctc2, rfl⟩)
    · by_cases hcfc2 : w &&& 0xFFE007FF#32 = 0x48400000#32
      · cases (decodeWord_of_cfc2Mask hcfc2).symm.trans h
        exact .inr (.inr ⟨hcfc2, rfl⟩)
      · cases (decodeWord_notBlockWord htag hctc2 hcfc2).symm.trans h

/-! ## The encoder on the fields of a word -/

/-- The fields of a COP2-VU word are all of its bits (R52). -/
theorem vuWord_fieldAt {w : Word} (h : fieldAt w 25 7 = 37) :
    vuWord (BitVec.ofNat 6 (fieldAt w 0 6)) (fieldAt w 6 5) (fieldAt w 11 5) (fieldAt w 16 5) (fieldAt w 21 4) = w := by
  apply BitVec.eq_of_toNat_eq
  have hw := w.isLt
  rw [vuWord_toNat, BitVec.toNat_ofNat]
  simp only [fieldAt] at h ⊢
  omega

/-- The fields of a CTC2 or CFC2 word are all of its bits that are not fixed (R55). -/
theorem moveWord_regField {w : Word} {tag : BitVec 11} (htag : w.toNat / 2 ^ 21 = tag.toNat)
    (hzero : w.toNat % 2 ^ 11 = 0) : moveWord tag (regField w 16) (regField w 11) = w := by
  apply BitVec.eq_of_toNat_eq
  rw [moveWord_toNat, regField_val, regField_val]
  omega

/-! ## The round trip -/

/-- Settles O2: it holds, by the decoder's reading of each format's fields. -/
theorem decodeOfEncodeIsIdentity : Obligations.DecodeOfEncodeIsIdentity := fun _ => decodeWord_encode

/-- Settles O3: it holds, by the three formats of a word that decodes, whose fixed bits and fields are all of its bits. -/
theorem encodeOfDecodeIsIdentity : Obligations.EncodeOfDecodeIsIdentity := by
  intro w i h
  rcases decodeWord_ok_cases h with ⟨row, hrow, htag, hcode, rfl⟩ | ⟨hmask, rfl⟩ | ⟨hmask, rfl⟩
  · obtain ⟨hencode, hwf⟩ :=
      encode_functTable hrow (fieldAt w 6 5) (fieldAt w 11 5) (fieldAt w 16 5) (fieldAt w 21 4)
    rw [hwf, hencode, ← hcode]
    exact ⟨fieldAt_operandsInRange w, vuWord_fieldAt htag⟩
  · obtain ⟨htag, hzero⟩ := (ctc2Mask_iff w).mp hmask
    exact ⟨rfl, moveWord_regField htag hzero⟩
  · obtain ⟨htag, hzero⟩ := (cfc2Mask_iff w).mp hmask
    exact ⟨rfl, moveWord_regField htag hzero⟩

/-! ## Match and mask -/

/-- Settles O4: it holds, since a row's match and mask fix the tag and the function code. -/
theorem tableWordsDecodeByMatchAndMask : Obligations.TableWordsDecodeByMatchAndMask := by
  intro row hrow w hmask
  obtain ⟨hcode, hmatch⟩ := rowMatch_eq hrow
  obtain ⟨htag, hfunct⟩ := (vuMask_iff w row.1 hcode).mp (hmask.trans hmatch)
  exact decodeWord_functTable hrow (congrArg (· % 2 ^ 7) htag) (by simpa [fieldAt] using hfunct)

/-! ## Words served -/

/-- A word the decoder refuses is refused with the decoder's reason in every state (R57, R58, R161). -/
theorem serve_word_of_decode_error {w : Word} {r : DecodeRefusal} (h : decodeWord w = .error r) (s : State) :
    serve (.word w) s = .refused (refusalOfDecode r) := by
  simp [serve, runWord, h]

/-- Settles O5: it holds, by the decoder's two refusals, which a served word reports as they are. -/
theorem otherWordsAreRefusedByName : Obligations.OtherWordsAreRefusedByName := by
  refine fun w s => ⟨fun htag hfunct => ?_, fun htag hctc2 hcfc2 => ?_⟩
  · have hdecode := decodeWord_functNotInBlock htag hfunct
    exact ⟨hdecode, serve_word_of_decode_error hdecode s⟩
  · have hdecode := decodeWord_notBlockWord htag hctc2 hcfc2
    exact ⟨hdecode, serve_word_of_decode_error hdecode s⟩

/-- The flag port refuses a write to a select of 3 or more (R152). -/
theorem flagWrite_outOfRange {sel : Nat} (h : 3 ≤ sel) (v : Word) (s : State) :
    flagWrite sel v s = .refused (.flagSelInvalid sel) := by
  simp [flagWrite, flagReg?_eq_none.mpr h]

/-- The flag port refuses a read of a select of 3 or more, whatever would become of the value (R152). -/
theorem flagRead_outOfRange {sel : Nat} (h : 3 ≤ sel) (store : FlagReg → Word → State) (s : State) :
    flagRead sel store s = .refused (.flagSelInvalid sel) := by
  simp [flagRead, flagReg?_eq_none.mpr h]

/-- A `FlagRead` of a select below 3 reads a flag register (R31, R151). -/
theorem flagRead_inRange {sel : Nat} (h : sel < 3) (store : FlagReg → Word → State) (s : State) :
    ∃ reg, flagRead sel store s = .next (store reg (s.readFlag reg)) := by
  rcases flagRead_cases sel store s with ⟨reg, -, hrun⟩ | ⟨hsel, -⟩
  · exact ⟨reg, hrun⟩
  · omega

/-- A `FlagRead` does the same with the value it reads whatever the store (R151): the value a raw one returns is the one any
other stores. -/
theorem flagRead_of_flagReadReply {sel : Nat} {s : State} {reg : FlagReg} {v : Word}
    (h : flagReadReply sel s = .next (s.reply (.flag reg v))) (store : FlagReg → Word → State) :
    flagRead sel store s = .next (store reg v) := by
  obtain ⟨reg', hreg, hreply⟩ := flagRead_next (store := fun reg v => s.reply (.flag reg v)) h
  have hvalue := List.append_cancel_left (congrArg State.replies hreply)
  cases hvalue
  simp [flagRead, hreg]

/-- A CTC2 word served is `FlagWrite(rd, GPR[rt])` (R55). -/
theorem serve_ctc2Word {w : Word} (h : w &&& 0xFFE007FF#32 = 0x48C00000#32) (s : State) :
    serve (.word w) s = flagWrite (fieldAt w 11 5) (s.readGPR ⟨fieldAt w 16 5, fieldAt_lt w 16⟩) s := by
  rw [serve_word_of_decode (decodeWord_of_ctc2Mask h), regField_eq_fieldAt, regField_eq_fieldAt]
  rfl

/-- A CFC2 word served is `FlagRead(rd)` with its value stored in `GPR[rt]` (R55). -/
theorem serve_cfc2Word {w : Word} (h : w &&& 0xFFE007FF#32 = 0x48400000#32) (s : State) :
    serve (.word w) s =
      flagRead (fieldAt w 11 5) (fun _ v => s.writeGPR ⟨fieldAt w 16 5, fieldAt_lt w 16⟩ v) s := by
  rw [serve_word_of_decode (decodeWord_of_cfc2Mask h), regField_eq_fieldAt, regField_eq_fieldAt]
  rfl

/-- Settles O6: it holds, by what a served CTC2 or CFC2 word is and by what the flag port does in range and out of range. -/
theorem flagPortWordsDriveThePort : Obligations.FlagPortWordsDriveThePort := by
  refine fun w s => ⟨fun hmask => ?_, fun hmask => ?_⟩
  · rw [serve_ctc2Word hmask]
    exact ⟨rfl, fun hsel => flagWrite_outOfRange hsel _ s⟩
  · rw [serve_cfc2Word hmask]
    refine ⟨fun reg v h => flagRead_of_flagReadReply h _, fun hsel => ?_, fun hsel => flagRead_outOfRange hsel _ s⟩
    obtain ⟨reg, hrun⟩ := flagRead_inRange hsel (fun reg v => s.reply (.flag reg v)) s
    exact ⟨reg, _, hrun⟩

end Sys2Proof.Machine
end

section
/-! The primitives of spec/40_primitives.md: the clamps by the range of the value they cut (R70 to R74), the swizzle (R75), the
product kinds (R77, R78), and the accumulator's addition and its carries (R80 to R82). -/

namespace Sys2Proof.Machine

/-! ## The element swizzle -/

/-- Settles O18: it holds, by evaluating the swizzle at the 16 codes and 8 lanes. -/
theorem swizzleFollowsLaneTable : Obligations.SwizzleFollowsLaneTable := by
  refine ⟨?_, ?_, ?_⟩ <;> decide

/-! ## The signed clamps -/

/-- The range test on the pattern itself: `H` is the sign extension of `M` (R70). -/
theorem sint32_inRange_iff (h m : Lane) :
    (-32768 ≤ sint32 h m ∧ sint32 h m ≤ 32767) ↔ h = if m.msb then 0xFFFF#16 else 0x0000#16 := by
  rw [← midFits_iff, midFits, beq_iff_eq]

section clampsByRange

variable {h m : Lane}

theorem midFits_eq_false (hv : ¬ (-32768 ≤ sint32 h m ∧ sint32 h m ≤ 32767)) : midFits h m = false :=
  Bool.eq_false_iff.mpr (hv ∘ (midFits_iff h m).mp)

/-- `H` is not negative when `v` is not. -/
theorem high_msb_eq_false (hv : 0 ≤ sint32 h m) : h.msb = false :=
  Bool.eq_false_iff.mpr fun hmsb => absurd ((sint32_neg_iff h m).mp hmsb) (by omega)

theorem signedClampMid_inRange (hlo : -32768 ≤ sint32 h m) (hhi : sint32 h m ≤ 32767) : signedClampMid h m = m := by
  simp [signedClampMid, (midFits_iff h m).mpr ⟨hlo, hhi⟩]

theorem signedClampMid_below (hv : sint32 h m < -32768) : signedClampMid h m = 0x8000#16 := by
  simp [signedClampMid, midFits_eq_false (h := h) (m := m) (by omega), (sint32_neg_iff h m).mpr (by omega)]

theorem signedClampMid_above (hv : 32767 < sint32 h m) : signedClampMid h m = 0x7FFF#16 := by
  simp [signedClampMid, midFits_eq_false (h := h) (m := m) (by omega), high_msb_eq_false (h := h) (m := m) (by omega)]

theorem signedClampLow_inRange (l : Lane) (hlo : -32768 ≤ sint32 h m) (hhi : sint32 h m ≤ 32767) :
    signedClampLow h m l = l := by
  simp [signedClampLow, (midFits_iff h m).mpr ⟨hlo, hhi⟩]

theorem signedClampLow_below (l : Lane) (hv : sint32 h m < -32768) : signedClampLow h m l = 0x0000#16 := by
  simp [signedClampLow, midFits_eq_false (h := h) (m := m) (by omega), (sint32_neg_iff h m).mpr (by omega)]

theorem signedClampLow_above (l : Lane) (hv : 32767 < sint32 h m) : signedClampLow h m l = 0xFFFF#16 := by
  simp [signedClampLow, midFits_eq_false (h := h) (m := m) (by omega), high_msb_eq_false (h := h) (m := m) (by omega)]

/-- In range, the mid word read as signed is the whole of `v` (R70). -/
theorem sint16_mid_of_inRange (hlo : -32768 ≤ sint32 h m) (hhi : sint32 h m ≤ 32767) : sint16 m = sint32 h m := by
  have hm := m.isLt
  have hsign := msb_iff m
  rw [sint32_eq] at hlo hhi ⊢
  rw [sint16_eq m]
  split <;> simp_all <;> omega

end clampsByRange

/-- SignedClampMid read as signed is `v` saturated to 16 bits (R70). -/
theorem sint16_signedClampMid (h m : Lane) : sint16 (signedClampMid h m) = max (-32768) (min 32767 (sint32 h m)) := by
  by_cases hlo : sint32 h m < -32768
  · have hmin : sint16 0x8000#16 = -32768 := by decide
    rw [signedClampMid_below hlo, hmin]
    omega
  · by_cases hhi : 32767 < sint32 h m
    · have hmax : sint16 0x7FFF#16 = 32767 := by decide
      rw [signedClampMid_above hhi, hmax]
      omega
    · rw [signedClampMid_inRange (by omega) (by omega), sint16_mid_of_inRange (h := h) (by omega) (by omega)]
      omega

/-- Settles O19: it holds, by the three ranges of `v`. -/
theorem signedClampMidSaturatesToInt16 : Obligations.SignedClampMidSaturatesToInt16 := fun h m =>
  ⟨sint16_signedClampMid h m, signedClampMid_inRange, signedClampMid_below, signedClampMid_above,
    sint32_inRange_iff h m⟩

/-- `sint48` of an accumulator lane is `v·2^16` and the low word (R23, R70). -/
theorem sint48_joinAcc (h m l : Lane) : sint48 (joinAcc h m l) = sint32 h m * 65536 + l.toNat := by
  have hh := h.isLt
  have hm := m.isLt
  have hl := l.isLt
  have hsign := msb_iff h
  rw [sint32_eq, sint16_eq, sint48, BitVec.toInt_eq_toNat_cond, joinAcc_toNat]
  split <;> split <;> simp_all <;> omega

/-- Settles O20: it holds, since the low word does not move the 48-bit value across a bound of R71's range. -/
theorem signedClampLowSaturatesOn48Bits : Obligations.SignedClampLowSaturatesOn48Bits := by
  intro h m l
  have hl := l.isLt
  simp only [sint48_joinAcc]
  refine ⟨fun hlo hhi => signedClampLow_inRange l (by omega) (by omega), fun hlo => ?_, fun hhi => ?_, ?_⟩
  · have hv : sint32 h m < -32768 := by omega
    rw [signedClampLow_below l hv, signedClampMid_below hv]
    decide
  · have hv : 32767 < sint32 h m := by omega
    rw [signedClampLow_above l hv, signedClampMid_above hv]
    decide
  · rw [← sint32_inRange_iff]
    omega

/-! ## The unsigned clamps -/

/-- For `v` not negative, the high word is zero exactly when `v` fits 16 unsigned bits (R72). -/
theorem high_eq_zero_iff {h m : Lane} (hv : 0 ≤ sint32 h m) : h = 0x0000#16 ↔ sint32 h m ≤ 0xFFFF := by
  have hm := m.isLt
  have hsign := msb_iff h
  rw [high_msb_eq_false hv] at hsign
  rw [← BitVec.toNat_inj, sint32_eq, sint16_eq, high_msb_eq_false hv, BitVec.toNat_ofNat]
  simp only [Bool.false_eq_true, if_false, false_iff] at hsign ⊢
  omega

/-- With a high word of zero, `v` is the mid word. -/
theorem sint32_zero_left (m : Lane) : sint32 0x0000#16 m = m.toNat := by
  have hzero : sint16 0x0000#16 = 0 := by decide
  rw [sint32_eq, hzero]
  omega

theorem unsignedClampMid_eq (h m : Lane) :
    unsignedClampMid h m = if sint32 h m < 0 then 0x0000#16 else if 0xFFFF < sint32 h m then 0xFFFF#16 else m := by
  by_cases hneg : sint32 h m < 0
  · simp [unsignedClampMid, (sint32_neg_iff h m).mpr hneg, hneg]
  · have hv : 0 ≤ sint32 h m := by omega
    simp [unsignedClampMid, high_msb_eq_false hv, high_eq_zero_iff hv, hneg]

theorem unsignedClampMidMACU_eq (h m : Lane) :
    unsignedClampMidMACU h m =
      if sint32 h m < 0 then 0x0000#16 else if 0xFFFF < sint32 h m then 0xFFFF#16
      else if 0x8000 ≤ sint32 h m then 0x0000#16 else m := by
  by_cases hneg : sint32 h m < 0
  · simp [unsignedClampMidMACU, (sint32_neg_iff h m).mpr hneg, hneg]
  · have hv : 0 ≤ sint32 h m := by omega
    by_cases hbig : 0xFFFF < sint32 h m
    · simp [unsignedClampMidMACU, high_msb_eq_false hv, high_eq_zero_iff hv, hneg, hbig]
    · obtain rfl : h = 0x0000#16 := (high_eq_zero_iff hv).mpr (by omega)
      have hsign := msb_iff m
      have hm : (0x8000 ≤ sint32 0x0000#16 m) ↔ m.msb = true := by rw [sint32_zero_left, hsign]; omega
      simp [unsignedClampMidMACU, hneg, hbig, hm]

theorem unsignedClampRef_eq (h m : Lane) :
    unsignedClampRef h m = if sint32 h m < 0 then 0x0000#16 else if 0x7FFF < sint32 h m then 0xFFFF#16 else m := by
  simp only [unsignedClampRef, sint32_neg_iff h m, gt_iff_lt]

/-- A result of VMACU's clamp is below 0x8000 or saturated (R73): `m` is kept only for `v` in `[0, 0x7FFF]`. -/
theorem unsignedClampMidMACU_range (h m : Lane) :
    (unsignedClampMidMACU h m).toNat ≤ 0x7FFF ∨ unsignedClampMidMACU h m = 0xFFFF#16 := by
  unfold unsignedClampMidMACU
  have hsign := msb_iff m
  split
  · exact .inl (by decide)
  split
  · exact .inr rfl
  split
  · exact .inl (by decide)
  · exact .inl (by simp_all; omega)

/-- Settles O21: it holds, by the signs and the zero test of the clamps read as ranges of `v`. -/
theorem unsignedClampsByValueRange : Obligations.UnsignedClampsByValueRange :=
  ⟨fun h m => ⟨unsignedClampMid_eq h m, unsignedClampMidMACU_eq h m, unsignedClampMidMACU_range h m,
    unsignedClampRef_eq h m⟩, fun _ _ => ⟨rfl, rfl, rfl, rfl⟩⟩

/-! ## The product kinds -/

/-- A product of two bounded factors, the first of either sign, the second not negative. -/
theorem mul_range_of_nonneg {x y a b c : Int} (hx : a ≤ x ∧ x ≤ b) (hy : 0 ≤ y ∧ y ≤ c) (ha : a ≤ 0) (hb : 0 ≤ b) :
    a * c ≤ x * y ∧ x * y ≤ b * c := by
  obtain ⟨hax, hxb⟩ := hx
  obtain ⟨hy0, hyc⟩ := hy
  constructor <;> nlinarith

theorem productSS_range (s t : Lane) : -1073709056 ≤ productSS s t ∧ productSS s t ≤ 1073741824 := by
  obtain ⟨hs, hs'⟩ := sint16_range s
  obtain ⟨ht, ht'⟩ := sint16_range t
  unfold productSS
  constructor <;> nlinarith

theorem sint16_eq_min_iff (x : Lane) : sint16 x = -32768 ↔ x = 0x8000#16 := by
  constructor
  · intro hx
    exact BitVec.eq_of_toInt_eq hx
  · rintro rfl
    decide

theorem productSS_eq_max_iff (s t : Lane) : productSS s t = 1073741824 ↔ s = 0x8000#16 ∧ t = 0x8000#16 := by
  rw [← sint16_eq_min_iff, ← sint16_eq_min_iff]
  obtain ⟨hs, hs'⟩ := sint16_range s
  obtain ⟨ht, ht'⟩ := sint16_range t
  unfold productSS
  constructor
  · intro h
    constructor <;> nlinarith
  · rintro ⟨hs, ht⟩
    rw [hs, ht]
    rfl

theorem productSU_range (s t : Lane) : -2147450880 ≤ productSU s t ∧ productSU s t ≤ 2147385345 :=
  mul_range_of_nonneg (sint16_range s) (uint16_range t) (by decide) (by decide)

theorem productUS_eq_productSU (s t : Lane) : productUS s t = productSU t s := mul_comm _ _

theorem productUS_range (s t : Lane) : -2147450880 ≤ productUS s t ∧ productUS s t ≤ 2147385345 :=
  productUS_eq_productSU s t ▸ productSU_range t s

theorem productUU_range (s t : Lane) : 0 ≤ productUU s t ∧ productUU s t ≤ 4294836225 :=
  mul_range_of_nonneg (uint16_range s) (uint16_range t) le_rfl (by decide)

/-- A sign bit taken off the unsigned reading gives the signed one (R12). -/
theorem sint16_eq_uint16_sub (x : Lane) : sint16 x = uint16 x - if x.msb then 2 ^ 16 else 0 := by
  rw [sint16_eq, uint16_eq]
  split <;> simp

theorem productSUCorrected_eq (s t : Lane) : productSUCorrected s t = productSU s t := by
  rw [productSUCorrected, productSU, productUU, sint16_eq_uint16_sub]
  split <;> ring

theorem productUSCorrected_eq (s t : Lane) : productUSCorrected s t = productUS s t := by
  rw [productUSCorrected, productUS, productUU, sint16_eq_uint16_sub]
  split <;> ring

/-- Settles O22: it holds, by the bounds of the two readings and the sign bit between them. -/
theorem productKindsRangesAndCorrections : Obligations.ProductKindsRangesAndCorrections := fun s t =>
  ⟨productSS_range s t, productSS_eq_max_iff s t, productSU_range s t, productUS_range s t, productUU_range s t,
    productSUCorrected_eq s t, productUSCorrected_eq s t⟩

/-! ## Carries and the accumulator's addition -/

theorem carryWord_toNat (c : Bool) : (carryWord c).toNat = c.toNat := by
  cases c <;> rfl

/-- The carry primitive is the carry out of the 16-bit sum (R81). -/
theorem carryOut_toNat (old addend : Lane) :
    (carryOut (old + addend) addend).toNat = (old.toNat + addend.toNat) / 2 ^ 16 := by
  have hold := old.isLt
  have hadd := addend.isLt
  rw [carryOut, BitVec.toNat_add]
  by_cases h : (old.toNat + addend.toNat) % 2 ^ 16 < addend.toNat
  · simp only [h, decide_true, Bool.toNat_true]
    omega
  · simp only [h, decide_false, Bool.toNat_false]
    omega

theorem carryOut_iff (old addend : Lane) :
    carryOut (old + addend) addend = true ↔ 2 ^ 16 ≤ old.toNat + addend.toNat := by
  have hold := old.isLt
  have hadd := addend.isLt
  have h := carryOut_toNat old addend
  rw [← Bool.toNat_eq_one]
  omega

/-- A sum of three words, the third a carry: the two carries add up to the exact sum's bits 16 and above (R81). -/
theorem carryOut_add_carryOut (m x : Lane) (c : Bool) :
    (carryOut (m + x) x).toNat + (carryOut (m + x + carryWord c) (carryWord c)).toNat =
      (m.toNat + x.toNat + (carryWord c).toNat) / 2 ^ 16 := by
  rw [carryOut_toNat, carryOut_toNat, BitVec.toNat_add]
  omega

/-- Settles O24: it holds, by the carry primitive as the quotient of the exact sum. -/
theorem carryPrimitiveDetectsOverflow : Obligations.CarryPrimitiveDetectsOverflow := by
  refine ⟨carryOut_iff, fun m x c => ?_⟩
  rw [carryWord_toNat (carryOut (m + x) x), carryWord_toNat (carryOut (m + x + carryWord c) (carryWord c))]
  exact carryOut_add_carryOut m x c

theorem accAdd_toNat (a : AccLane) (x : Int) : ((accAdd a x).toNat : Int) = ((a.toNat : Int) + x) % 2 ^ 48 :=
  toAcc_toNat _

/-- A lane's value from its three words (R23, R82). -/
theorem acc_toNat_split (a : AccLane) :
    a.toNat = (accHigh a).toNat * 2 ^ 32 + (accMid a).toNat * 2 ^ 16 + (accLow a).toNat := by
  rw [accHigh_toNat, accMid_toNat, accLow_toNat]
  omega

/-- Of two carries of one position at most one is set: their disjunction is their sum (R81). -/
theorem carryOut_or_carryOut (m x : Lane) (c : Bool) :
    (carryOut (m + x) x || carryOut (m + x + carryWord c) (carryWord c)).toNat =
      (m.toNat + x.toNat + c.toNat) / 2 ^ 16 := by
  have h := carryOut_add_carryOut m x c
  have hm := m.isLt
  have hx := x.isLt
  have hc := Bool.toNat_le c
  rw [carryWord_toNat] at h
  rw [← h]
  revert h
  cases carryOut (m + x) x <;> cases carryOut (m + x + carryWord c) (carryWord c) <;> simp
  omega

/-- Word-by-word addition is addition of the patterns (R80, R81). -/
theorem accAddByWords_eq_add (a : AccLane) (x : Int) : accAddByWords a x = a + toAcc x := by
  apply BitVec.eq_of_toNat_eq
  have ha := acc_toNat_split a
  have hx := acc_toNat_split (toAcc x)
  have hlow := (accLow a).isLt
  simp only [accAddByWords, joinAcc_toNat, BitVec.toNat_add, carryWord_toNat, carryOut_or_carryOut, carryOut_toNat]
  omega

/-- The high word of an addend in `[-2^31, 2^32)` is its sign fill (R81). -/
theorem accHigh_toAcc {x : Int} (hlo : -2 ^ 31 ≤ x) (hhi : x < 2 ^ 32) :
    accHigh (toAcc x) = if x < 0 then 0xFFFF#16 else 0x0000#16 := by
  have hx := toAcc_toNat x
  apply BitVec.eq_of_toNat_eq
  rw [accHigh_toNat]
  split <;> simp only [BitVec.toNat_ofNat] <;> omega

/-- Settles O23: it holds, by the word form as an addition of 48-bit patterns. -/
theorem accAddWrapsAndEqualsWordForm : Obligations.AccAddWrapsAndEqualsWordForm :=
  ⟨fun a x => ⟨accAdd_toNat a x, (accAdd_eq_add a x).trans (accAddByWords_eq_add a x).symm⟩,
    fun _ => accHigh_toAcc, acc_toNat_split⟩

/-! ## VMULF's rounding -/

/-- An exact integer that fits 48 signed bits is not changed by the cut (R13, R23). -/
theorem sint48_toAcc {x : Int} (hlo : -2 ^ 47 ≤ x) (hhi : x < 2 ^ 47) : sint48 (toAcc x) = x :=
  BitVec.toInt_ofInt_eq_self (by decide) hlo hhi

/-- The high and mid words of an exact integer: its upper part, rounded down (R70). -/
theorem sint32_toAcc {x : Int} (hlo : -2 ^ 47 ≤ x) (hhi : x < 2 ^ 47) :
    sint32 (accHigh (toAcc x)) (accMid (toAcc x)) = x / 2 ^ 16 := by
  have hlow := (accLow (toAcc x)).isLt
  have hjoin := sint48_joinAcc (accHigh (toAcc x)) (accMid (toAcc x)) (accLow (toAcc x))
  rw [joinAcc_split, sint48_toAcc hlo hhi] at hjoin
  omega

/-- The clamp of VMULF's accumulator is the rounded product, saturated above alone: no product reaches the lower bound (R79,
R90). -/
theorem sint16_vmulfResult (x y : Lane) :
    sint16 (signedClampMid (accHigh (vmulfAcc x y)) (accMid (vmulfAcc x y))) =
      min 32767 ((2 * productSS x y + 2 ^ 15) / 2 ^ 16) := by
  obtain ⟨hlo, hhi⟩ := productSS_range x y
  rw [sint16_signedClampMid, vmulfAcc, sint32_toAcc (by omega) (by omega)]
  omega

/-- VMULF on operands in range (R90). -/
theorem exec_vmulf (s : State) (vd vs vt : RegIx) (e : Fin 16) :
    exec (.vmulf vd.val vs.val vt.val e.val) s =
      .next (accumulatorOp ⟨vd, vs, vt, e⟩ (fun _ x y => vmulfAcc x y) (fun h m _ => signedClampMid h m) s) :=
  withOperands_inRange vd vs vt e _

/-- Settles O38: it holds, since VMULF's accumulator is the exact doubled product and rounding term, whose upper part is the
quotient. -/
theorem vmulfResultRoundsToNearestQ15 : Obligations.VmulfResultRoundsToNearestQ15 := by
  intro s vd vs vt e
  refine ⟨_, exec_vmulf s vd vs vt e, fun i => ?_⟩
  obtain ⟨hacc, hlane, -⟩ :=
    accumulatorOp_spec ⟨vd, vs, vt, e⟩ (fun _ x y => vmulfAcc x y) (fun h m _ => signedClampMid h m) s
  rw [hlane, ← accHigh_acc, ← accMid_acc, hacc]
  exact sint16_vmulfResult _ _

end Sys2Proof.Machine
end

section
/-! The lanes (spec/10_state.md R20; spec/40_primitives.md R83, R85, R86): the three shapes of operation as scalar loops over
the lanes in any order, and the independence of the lanes. -/

namespace Sys2Proof.Machine

/-! ## A loop that writes one lane in each iteration -/

/-- A loop over lanes, each iteration of which gives lane `i` the value `val i` and keeps every other lane: afterwards the
lanes of the loop hold their values, and the others what they held. -/
theorem foldl_laneWrites {σ β : Type} {get : σ → LaneIx → β} {write : σ → LaneIx → σ} {val : LaneIx → β}
    (hwrite : ∀ t i j, get (write t i) j = if j = i then val i else get t j) (order : List LaneIx) (t : σ) (j : LaneIx) :
    get (order.foldl write t) j = if j ∈ order then val j else get t j := by
  induction order generalizing t with
  | nil => simp
  | cons i order ih =>
    rw [List.foldl_cons, ih, hwrite]
    by_cases hj : j = i <;> simp [hj]

/-- Eight lanes after the writes of a loop. -/
def setLanes (order : List LaneIx) (f : LaneIx → Lane) (v : Lanes) : Lanes :=
  order.foldl (fun v i => v.set i.val (f i) i.isLt) v

theorem get_set_eq_ite (v : Lanes) (i j : LaneIx) (x : Lane) :
    (v.set i.val x i.isLt).get j = if j = i then x else v.get j := by
  by_cases hj : j = i
  · simp [hj]
  · simp [hj, get_set_other]

/-- A loop over every lane leaves nothing of what the lanes held. -/
theorem setLanes_eq_laneMap {order : List LaneIx} (horder : ∀ i, i ∈ order) (f : LaneIx → Lane) (v : Lanes) :
    setLanes order f v = laneMap f := by
  refine lanes_ext fun j => ?_
  rw [setLanes, foldl_laneWrites (get := Vector.get) (fun v i j => get_set_eq_ite v i j (f i)), if_pos (horder j),
    laneMap_get]

/-- A flag register's 16 bits after the writes of a compare-select loop. -/
def setFlags (order : List LaneIx) (c : LaneIx → LaneChoice) (x : BitVec 16) : BitVec 16 :=
  order.foldl (fun x i => setFlagBit (setFlagBit x i.val (c i).le) (i.val + 8) (c i).ge) x

theorem setFlagBit_getLsbD (x : BitVec 16) {k : Nat} (hk : k < 16) (b : Bool) (j : Nat) :
    (setFlagBit x k b).getLsbD j = if j = k then b else x.getLsbD j := by
  by_cases hj : j = k
  · cases b <;> simp [setFlagBit, hj, hk]
  · cases b with
    | true => simp [setFlagBit, hj, Ne.symm hj]
    | false => simpa [setFlagBit, hj, Ne.symm hj] using BitVec.lt_of_getLsbD

/-- A lane's low bit after the two writes of one iteration. -/
theorem setFlagBit_pair_low (x : BitVec 16) (i j : LaneIx) (le ge : Bool) :
    (setFlagBit (setFlagBit x i.val le) (i.val + 8) ge).getLsbD j.val = if j = i then le else x.getLsbD j.val := by
  have hj : j.val ≠ i.val + 8 := by omega
  rw [setFlagBit_getLsbD _ (by omega), if_neg hj, setFlagBit_getLsbD _ (by omega)]
  simp only [Fin.ext_iff]

/-- A lane's high bit after the two writes of one iteration. -/
theorem setFlagBit_pair_high (x : BitVec 16) (i j : LaneIx) (le ge : Bool) :
    (setFlagBit (setFlagBit x i.val le) (i.val + 8) ge).getLsbD (j.val + 8) =
      if j = i then ge else x.getLsbD (j.val + 8) := by
  have hj : j.val + 8 ≠ i.val := by omega
  rw [setFlagBit_getLsbD _ (by omega), setFlagBit_getLsbD _ (by omega), if_neg hj]
  simp only [Nat.add_right_cancel_iff, Fin.ext_iff]

theorem flags_ext {x y : BitVec 16} (hlow : ∀ i : LaneIx, x.getLsbD i.val = y.getLsbD i.val)
    (hhigh : ∀ i : LaneIx, x.getLsbD (i.val + 8) = y.getLsbD (i.val + 8)) : x = y := by
  apply BitVec.eq_of_getLsbD_eq
  intro k hk
  by_cases hk8 : k < 8
  · exact hlow ⟨k, hk8⟩
  · have h := hhigh ⟨k - 8, by omega⟩
    rwa [Nat.sub_add_cancel (by omega)] at h

/-- A loop over every lane rebuilds the whole of VCC. -/
theorem setFlags_eq_packVCC {order : List LaneIx} (horder : ∀ i, i ∈ order) (c : LaneIx → LaneChoice) (x : BitVec 16) :
    setFlags order c x = packVCC (fun i => (c i).le) (fun i => (c i).ge) := by
  refine flags_ext (fun i => ?_) fun i => ?_
  · rw [setFlags, foldl_laneWrites (get := fun x i => x.getLsbD i.val)
      (fun x i j => setFlagBit_pair_low x i j (c i).le (c i).ge), if_pos (horder i), packVCC_le]
  · rw [setFlags, foldl_laneWrites (get := fun x i => x.getLsbD (i.val + 8))
      (fun x i j => setFlagBit_pair_high x i j (c i).le (c i).ge), if_pos (horder i), packVCC_ge]

/-! ## The three loops, each written once for all its lanes -/

theorem vr_set_get_self (v : Vector Lanes 32) (r : RegIx) : v.set r.val (v.get r) r.isLt = v := by
  simp [Vector.get_eq_getElem]

/-- The loop of an accumulator operation, from any state: lane writes of the three accumulator words and of one register. -/
theorem foldl_writeAccumulatorLanes (r : RegIx) (h m l v : LaneIx → Lane) (order : List LaneIx) (t : State) :
    order.foldl (fun t i =>
        ((t.writeAccLaneHighMid i (h i) (m i)).writeAccLaneLow i (l i)).writeLane r i (v i)) t =
      { t with
        accH := setLanes order h t.accH
        accM := setLanes order m t.accM
        accL := setLanes order l t.accL
        vr := t.vr.set r.val (setLanes order v (t.vr.get r)) r.isLt } := by
  induction order generalizing t with
  | nil => simp [setLanes, vr_set_get_self]
  | cons i order ih =>
    rw [List.foldl_cons, ih]
    simp [State.writeLane, State.writeVR, State.writeAccLaneHighMid, State.writeAccLaneLow, setLanes]

/-- The loop of VMADH, from any state: lane writes of the high and mid words and of one register. -/
theorem foldl_writeHighMidLanes (r : RegIx) (h m v : LaneIx → Lane) (order : List LaneIx) (t : State) :
    order.foldl (fun t i => (t.writeAccLaneHighMid i (h i) (m i)).writeLane r i (v i)) t =
      { t with
        accH := setLanes order h t.accH
        accM := setLanes order m t.accM
        vr := t.vr.set r.val (setLanes order v (t.vr.get r)) r.isLt } := by
  induction order generalizing t with
  | nil => simp [setLanes, vr_set_get_self]
  | cons i order ih =>
    rw [List.foldl_cons, ih]
    simp [State.writeLane, State.writeVR, State.writeAccLaneHighMid, setLanes]

/-- One iteration of a compare-select loop. -/
def writeChoice (r : RegIx) (c : LaneIx → LaneChoice) (t : State) (i : LaneIx) : State :=
  let u := (t.writeAccLaneLow i (c i).res).writeLane r i (c i).res
  { u with vcc := setFlagBit (setFlagBit u.vcc i.val (c i).le) (i.val + 8) (c i).ge }

/-- The loop of VCL and VCR, from any state: lane writes of the low word, of one register and of VCC. -/
theorem foldl_writeChoice (r : RegIx) (c : LaneIx → LaneChoice) (order : List LaneIx) (t : State) :
    order.foldl (writeChoice r c) t =
      { t with
        accL := setLanes order (fun i => (c i).res) t.accL
        vr := t.vr.set r.val (setLanes order (fun i => (c i).res) (t.vr.get r)) r.isLt
        vcc := setFlags order c t.vcc } := by
  induction order generalizing t with
  | nil => simp [setLanes, setFlags, vr_set_get_self]
  | cons i order ih =>
    rw [List.foldl_cons, ih]
    simp [writeChoice, State.writeLane, State.writeVR, State.writeAccLaneLow, setLanes, setFlags]

section everyLane

variable {order : List LaneIx} (horder : ∀ i, i ∈ order) (o : Operands) (s : State)
include horder

theorem accumulatorLoop_eq (f : AccLane → Lane → Lane → AccLane) (g : Lane → Lane → Lane → Lane) :
    accumulatorLoop order o f g s = accumulatorOp o f g s := by
  refine (foldl_writeAccumulatorLanes ..).trans ?_
  simp only [setLanes_eq_laneMap horder]
  rfl

theorem accumulatorHighMidLoop_eq (fh fm : Lane → Lane → Lane → Lane → Lane) (g : Lane → Lane → Lane) :
    accumulatorHighMidLoop order o fh fm g s = accumulatorHighMidOp o fh fm g s := by
  refine (foldl_writeHighMidLanes ..).trans ?_
  simp only [setLanes_eq_laneMap horder]
  rfl

theorem compareSelectLoop_eq (c : LaneIx → LaneChoice) : compareSelectLoop order o c s = compareSelectOp o c s := by
  have hloop := foldl_writeChoice o.vd c order s
  rw [setLanes_eq_laneMap horder, setLanes_eq_laneMap horder, setFlags_eq_packVCC horder] at hloop
  exact congrArg (fun t : State => { t with vco := 0#16, vce := 0#8 }) hloop

/-- Every instruction is answered as its scalar loop answers it, operands out of range included (R86). -/
theorem exec_eq_execByLoop (i : Instr) : exec i s = execByLoop order i s := by
  cases i with
  | vmulf vd vs vt e | vmulu vd vs vt e | vmudl vd vs vt e | vmudm vd vs vt e | vmudn vd vs vt e | vmudh vd vs vt e
  | vmacf vd vs vt e | vmacu vd vs vt e | vmadl vd vs vt e | vmadm vd vs vt e | vmadn vd vs vt e =>
    exact congrArg (withOperands vd vs vt e) (funext fun o => (accumulatorLoop_eq horder o s _ _).symm)
  | vmadh vd vs vt e =>
    exact congrArg (withOperands vd vs vt e) (funext fun o => (accumulatorHighMidLoop_eq horder o s _ _ _).symm)
  | vcl vd vs vt e | vcr vd vs vt e =>
    exact congrArg (withOperands vd vs vt e) (funext fun o => (compareSelectLoop_eq horder o s _).symm)
  | ctc2 | cfc2 => rfl

end everyLane

/-- Settles O25: it holds, since an order of the lanes holds every lane and each iteration computes from the snapshot. -/
theorem laneLoopsEqualAllLanesAtOnce : Obligations.LaneLoopsEqualAllLanesAtOnce := by
  intro order hperm
  have horder (i : LaneIx) : i ∈ order := hperm.mem_iff.mpr (List.mem_finRange i)
  exact ⟨fun o s => ⟨accumulatorLoop_eq horder o s, accumulatorHighMidLoop_eq horder o s,
    compareSelectLoop_eq horder o s⟩, fun i s => exec_eq_execByLoop horder s i⟩

/-! ## What each of the 14 operations is -/

/-- Every operation is of one of the three shapes, each lane from a function of what that lane holds (R83). -/
theorem exec_vuOps_shape {mk : Nat → Nat → Nat → Nat → Instr} (hmk : mk ∈ vuOps) :
    (∃ f g, ∀ vd vs vt e s, exec (mk vd vs vt e) s = withOperands vd vs vt e fun o => accumulatorOp o f g s) ∨
    (∃ fh fm g, ∀ vd vs vt e s,
      exec (mk vd vs vt e) s = withOperands vd vs vt e fun o => accumulatorHighMidOp o fh fm g s) ∨
    (∃ c : Lane → Lane → Bool → Bool → Bool → Bool → Bool → LaneChoice, ∀ vd vs vt e s,
      exec (mk vd vs vt e) s = withOperands vd vs vt e fun o =>
        compareSelectOp o (fun i =>
          c (s.vsLane o i) (s.vtLane o i) (s.carry i) (s.eqFlag i) (s.lePrev i) (s.gePrev i) (s.ce i)) s) := by
  simp only [vuOps, List.mem_cons, List.not_mem_nil, or_false] at hmk
  obtain rfl | rfl | rfl | rfl | rfl | rfl | rfl | rfl | rfl | rfl | rfl | rfl | rfl | rfl := hmk
  -- the multiplies, and the multiply-accumulates but VMADH
  iterate 11 exact .inl ⟨_, _, fun _ _ _ _ _ => rfl⟩
  · exact .inr (.inl ⟨_, _, _, fun _ _ _ _ _ => rfl⟩)
  · exact .inr (.inr ⟨vclLane, fun _ _ _ _ _ => rfl⟩)
  · exact .inr (.inr ⟨fun x y _ _ _ _ _ => vcrLane x y, fun _ _ _ _ _ => rfl⟩)

/-! ## Lanes are independent -/

/-- Two states hold the same in all that lane `i` of an operation may read: operands, accumulator, flag bits. -/
structure SameLaneInput (o : Operands) (i : LaneIx) (s s' : State) : Prop where
  vs : s.vsLane o i = s'.vsLane o i
  vt : s.vtLane o i = s'.vtLane o i
  acc : s.acc i = s'.acc i
  flags : laneFlags s i = laneFlags s' i

/-- Two states hold the same in all that lane `i` of an operation may write. -/
structure SameLaneOutput (o : Operands) (i : LaneIx) (t t' : State) : Prop where
  vd : t.lane o.vd i = t'.lane o.vd i
  acc : t.acc i = t'.acc i
  flags : laneFlags t i = laneFlags t' i

theorem laneFlags_eq_iff {s s' : State} {i : LaneIx} :
    laneFlags s i = laneFlags s' i ↔
      s.carry i = s'.carry i ∧ s.eqFlag i = s'.eqFlag i ∧ s.lePrev i = s'.lePrev i ∧ s.gePrev i = s'.gePrev i ∧
        s.ce i = s'.ce i := by
  simp [laneFlags, State.carry, State.eqFlag, State.lePrev, State.gePrev, State.ce]

/-- The flags of a lane are kept by what writes no flag register. -/
theorem laneFlags_of_sameOutside {ps : List Piece} {s t : State} (h : sameOutside ps s t) (hvco : .vco ∉ ps)
    (hvcc : .vcc ∉ ps) (hvce : .vce ∉ ps) (i : LaneIx) : laneFlags t i = laneFlags s i := by
  obtain ⟨hpieces, -, -⟩ := h
  have hvco' : s.vco = t.vco := hpieces .vco hvco
  have hvcc' : s.vcc = t.vcc := hpieces .vcc hvcc
  have hvce' : s.vce = t.vce := hpieces .vce hvce
  rw [laneFlags, laneFlags, hvco', hvcc', hvce']

/-- Two lanes of the accumulator agree when their three words do, and the words agree when the lanes do (R23). -/
theorem acc_eq_iff {s s' : State} {i : LaneIx} :
    s.acc i = s'.acc i ↔
      s.accH.get i = s'.accH.get i ∧ s.accM.get i = s'.accM.get i ∧ s.accL.get i = s'.accL.get i := by
  constructor
  · intro h
    rw [← accHigh_acc, ← accMid_acc, ← accLow_acc, h]
    simp
  · rintro ⟨hh, hm, hl⟩
    rw [State.acc, State.acc, hh, hm, hl]

section sameLane

variable {o : Operands} {i : LaneIx} {s s' : State}

theorem accumulatorOp_sameLane (h : SameLaneInput o i s s') (f : AccLane → Lane → Lane → AccLane)
    (g : Lane → Lane → Lane → Lane) : SameLaneOutput o i (accumulatorOp o f g s) (accumulatorOp o f g s') := by
  obtain ⟨hacc, hlane, hframe⟩ := accumulatorOp_spec o f g s
  obtain ⟨hacc', hlane', hframe'⟩ := accumulatorOp_spec o f g s'
  have hnew : (accumulatorOp o f g s).acc i = (accumulatorOp o f g s').acc i := by
    rw [hacc, hacc', h.acc, h.vs, h.vt]
  obtain ⟨hh, hm, hl⟩ := acc_eq_iff.mp hnew
  refine ⟨by rw [hlane, hlane', hh, hm, hl], hnew, ?_⟩
  rw [laneFlags_of_sameOutside hframe (by simp) (by simp) (by simp),
    laneFlags_of_sameOutside hframe' (by simp) (by simp) (by simp), h.flags]

theorem accumulatorHighMidOp_sameLane (h : SameLaneInput o i s s') (fh fm : Lane → Lane → Lane → Lane → Lane)
    (g : Lane → Lane → Lane) :
    SameLaneOutput o i (accumulatorHighMidOp o fh fm g s) (accumulatorHighMidOp o fh fm g s') := by
  obtain ⟨hhigh, hmid, hlane, hframe⟩ := accumulatorHighMidOp_spec o fh fm g s
  obtain ⟨hhigh', hmid', hlane', hframe'⟩ := accumulatorHighMidOp_spec o fh fm g s'
  obtain ⟨hh, hm, hl⟩ := acc_eq_iff.mp h.acc
  have hnewHigh : (accumulatorHighMidOp o fh fm g s).accH.get i = (accumulatorHighMidOp o fh fm g s').accH.get i := by
    rw [hhigh, hhigh', hh, hm, h.vs, h.vt]
  have hnewMid : (accumulatorHighMidOp o fh fm g s).accM.get i = (accumulatorHighMidOp o fh fm g s').accM.get i := by
    rw [hmid, hmid', hh, hm, h.vs, h.vt]
  refine ⟨by rw [hlane, hlane', hnewHigh, hnewMid], acc_eq_iff.mpr ⟨hnewHigh, hnewMid, hl⟩, ?_⟩
  rw [laneFlags_of_sameOutside hframe (by simp) (by simp) (by simp),
    laneFlags_of_sameOutside hframe' (by simp) (by simp) (by simp), h.flags]

theorem compareSelectOp_sameLane (h : SameLaneInput o i s s') {c c' : LaneIx → LaneChoice} (hc : c i = c' i) :
    SameLaneOutput o i (compareSelectOp o c s) (compareSelectOp o c' s') := by
  obtain ⟨hlow, hlane, hle, hge, hvco, hvce, -⟩ := compareSelectOp_spec o c s
  obtain ⟨hlow', hlane', hle', hge', hvco', hvce', -⟩ := compareSelectOp_spec o c' s'
  obtain ⟨hh, hm, -⟩ := acc_eq_iff.mp h.acc
  refine ⟨by rw [hlane, hlane', hc], acc_eq_iff.mpr ⟨hh, hm, by rw [hlow, hlow', hc]⟩, laneFlags_eq_iff.mpr ?_⟩
  rw [hle, hle', hge, hge', hc]
  simp [State.carry, State.eqFlag, State.ce, hvco, hvco', hvce, hvce']

end sameLane

/-- Settles O49: it holds, by the shape of each operation, which computes lane `i` from what lane `i` holds. -/
theorem lanesAreIndependent : Obligations.LanesAreIndependent := by
  intro mk hmk s s' vd vs vt e i hvs hvt hacc hflags
  have hin : SameLaneInput ⟨vd, vs, vt, e⟩ i s s' := ⟨hvs, hvt, hacc, hflags⟩
  have hout : ∃ run : State → Operands → State,
      (∀ s, exec (mk vd.val vs.val vt.val e.val) s = withOperands vd.val vs.val vt.val e.val (run s)) ∧
      SameLaneOutput ⟨vd, vs, vt, e⟩ i (run s ⟨vd, vs, vt, e⟩) (run s' ⟨vd, vs, vt, e⟩) := by
    rcases exec_vuOps_shape hmk with ⟨f, g, hexec⟩ | ⟨fh, fm, g, hexec⟩ | ⟨c, hexec⟩
    · exact ⟨_, hexec _ _ _ _, accumulatorOp_sameLane hin f g⟩
    · exact ⟨_, hexec _ _ _ _, accumulatorHighMidOp_sameLane hin fh fm g⟩
    · obtain ⟨hcarry, heq, hle, hge, hce⟩ := laneFlags_eq_iff.mp hflags
      exact ⟨_, hexec _ _ _ _, compareSelectOp_sameLane hin (by rw [hin.vs, hin.vt, hcarry, heq, hle, hge, hce])⟩
  obtain ⟨run, hexec, hsame⟩ := hout
  exact ⟨_, _, (hexec s).trans (withOperands_inRange ..), (hexec s').trans (withOperands_inRange ..),
    hsame.vd, hsame.acc, hsame.flags⟩

end Sys2Proof.Machine
end

section
/-! The multiply family (spec/41_multiply.md R90 to R95): each operation's accumulator as an exact integer cut to 48 bits, and
what the range of that integer says of the words and of the clamped result. -/

namespace Sys2Proof.Machine

/-! ## Rows and completion -/

/-- A row of the function table decodes by its match word (R54). -/
theorem rowDecodes_of_mem_functTable {row : Nat × (Nat → Nat → Nat → Nat → Instr)} (hrow : row ∈ functTable) :
    RowDecodes (0x4A000000#32 ||| BitVec.ofNat 32 row.1) row.2 :=
  tableWordsDecodeByMatchAndMask row hrow

/-- An instruction of the shape `accumulatorOp` completes on operands in range and keeps its frame; a property holds of every
lane after it that follows from the lane's new accumulator and result alone (R82, R85). -/
theorem accumulatorOp_completes {ins : Instr} {s : State} {vd vs vt : RegIx} {e : Fin 16}
    {f : AccLane → Lane → Lane → AccLane} {g : Lane → Lane → Lane → Lane} {P : State → LaneIx → Prop}
    (hins : exec ins s = withOperands vd.val vs.val vt.val e.val fun o => accumulatorOp o f g s)
    (hlane : ∀ t i, t.acc i = f (s.acc i) (s.lane vs i) (s.lane vt (swz Config.pSwz1 e i)) →
      t.lane vd i = g (t.accH.get i) (t.accM.get i) (t.accL.get i) → P t i) :
    ∃ t, exec ins s = .next t ∧ sameOutside [.vr vd, .accL, .accM, .accH] s t ∧ ∀ i, P t i := by
  obtain ⟨hacc, hresult, hframe⟩ := accumulatorOp_spec ⟨vd, vs, vt, e⟩ f g s
  exact ⟨_, hins.trans (withOperands_inRange ..), hframe, fun i => hlane _ i (hacc i) (hresult i)⟩

/-! ## A high word that is the sign replica of the mid word -/

/-- The high word is the mid word's sign replica exactly when `v` fits 16 signed bits (R70). -/
theorem eq_signFill_iff (h m : Lane) : h = signFill m ↔ -32768 ≤ sint32 h m ∧ sint32 h m ≤ 32767 := by
  rw [sint32_inRange_iff, signFill, BitVec.msb_eq_getLsbD_last]

theorem signedClampMid_of_signFill {h m : Lane} (hfill : h = signFill m) : signedClampMid h m = m := by
  obtain ⟨hlo, hhi⟩ := (eq_signFill_iff h m).mp hfill
  exact signedClampMid_inRange hlo hhi

theorem signedClampLow_of_signFill {h m : Lane} (hfill : h = signFill m) (l : Lane) : signedClampLow h m l = l := by
  obtain ⟨hlo, hhi⟩ := (eq_signFill_iff h m).mp hfill
  exact signedClampLow_inRange l hlo hhi

/-! ## The words of a lane that holds an exact integer -/

section exactLane

variable {t : State} {i : LaneIx} {n : Int}

/-- The high and mid words hold the integer's upper part (R70). -/
theorem sint32_of_acc_eq_toAcc (hacc : t.acc i = toAcc n) (hlo : -2 ^ 47 ≤ n) (hhi : n < 2 ^ 47) :
    sint32 (t.accH.get i) (t.accM.get i) = n / 2 ^ 16 := by
  rw [← accHigh_acc, ← accMid_acc, hacc, sint32_toAcc hlo hhi]

/-- An integer of 32 signed bits leaves a sign replica in the high word (R90, R93, R94). -/
theorem accH_eq_signFill (hacc : t.acc i = toAcc n) (hlo : -2 ^ 31 ≤ n) (hhi : n < 2 ^ 31) :
    t.accH.get i = signFill (t.accM.get i) := by
  rw [eq_signFill_iff, sint32_of_acc_eq_toAcc hacc (by omega) (by omega)]
  omega

/-- An integer in `[-2^31, 2^32)` leaves one of the two sign fills in the high word (R81, R91). -/
theorem accH_eq_ones_or_zero (hacc : t.acc i = toAcc n) (hlo : -2 ^ 31 ≤ n) (hhi : n < 2 ^ 32) :
    t.accH.get i = 0xFFFF#16 ∨ t.accH.get i = 0x0000#16 := by
  rw [← accHigh_acc, hacc, accHigh_toAcc hlo hhi]
  exact ite_eq_or_eq _ _ _

end exactLane

/-! ## VMULF and VMULU -/

/-- The corner is the one pair above 2^30 - 2^15, so the rounding term carries no other product out of 32 signed bits (R77,
R90). -/
theorem productSS_le_of_not_corner {x y : Lane} (hne : ¬(x = 0x8000#16 ∧ y = 0x8000#16)) :
    productSS x y ≤ 1073709056 := by
  rw [← sint16_eq_min_iff, ← sint16_eq_min_iff] at hne
  obtain ⟨hx, hx'⟩ := sint16_range x
  obtain ⟨hy, hy'⟩ := sint16_range y
  unfold productSS
  rcases not_and_or.mp hne with hxmin | hymin
  · have hx1 : -32767 ≤ sint16 x := by omega
    nlinarith
  · have hy1 : -32767 ≤ sint16 y := by omega
    nlinarith

/-- The -32768 corner: +2^31 and the rounding term (R90). -/
theorem vmulfAcc_corner : vmulfAcc 0x8000#16 0x8000#16 = 0x000080008000#48 := by decide

/-- The words of the corner's accumulator (R90). -/
theorem words_of_acc_eq_corner {t : State} {i : LaneIx} (hacc : t.acc i = 0x000080008000#48) :
    t.accH.get i = 0x0000#16 ∧ t.accM.get i = 0x8000#16 := by
  rw [← accHigh_acc, ← accMid_acc, hacc]
  decide

/-- Settles O26: it holds, since every doubled and rounded product but the corner's fits 32 signed bits. -/
theorem vmulfMultipliesRoundsAndClamps : Obligations.VmulfMultipliesRoundsAndClamps := by
  refine ⟨rowDecodes_of_mem_functTable (row := (0x00, .vmulf)) (by simp [functTable]), fun s vd vs vt e =>
    accumulatorOp_completes rfl fun t i hacc hres => ?_⟩
  refine ⟨hacc ▸ toAcc_toNat _, hres, fun ⟨hx, hy⟩ => ?_, fun hne => ?_⟩
  · rw [hx, hy, vmulfAcc_corner] at hacc
    obtain ⟨hhigh, hmid⟩ := words_of_acc_eq_corner hacc
    rw [hres, hhigh, hmid]
    exact ⟨hacc, by decide⟩
  · have hle := productSS_le_of_not_corner hne
    obtain ⟨hlo, -⟩ := productSS_range (s.lane vs i) (s.lane vt (swz Config.pSwz1 e i))
    have hfill := accH_eq_signFill hacc (by omega) (by omega)
    exact ⟨hfill, hres.trans (signedClampMid_of_signFill hfill)⟩

theorem unsignedClampMid_high_ones (m : Lane) : unsignedClampMid 0xFFFF#16 m = 0x0000#16 :=
  if_pos (by decide)

theorem unsignedClampMid_high_zero (m : Lane) : unsignedClampMid 0x0000#16 m = m := by
  simp [unsignedClampMid]

/-- Settles O27: it holds, since the doubled and rounded product lies in `[-2^31, 2^32)`, where the high word is a sign fill. -/
theorem vmuluMultipliesAndClampsUnsigned : Obligations.VmuluMultipliesAndClampsUnsigned := by
  refine ⟨rowDecodes_of_mem_functTable (row := (0x01, .vmulu)) (by simp [functTable]), fun s vd vs vt e =>
    accumulatorOp_completes rfl fun t i hacc hres => ?_⟩
  refine ⟨hacc ▸ toAcc_toNat _, hres, fun hdoc => ?_⟩
  obtain ⟨hlo, hhi⟩ := productSS_range (s.lane vs i) (s.lane vt (swz Config.pSwz1 e i))
  rw [hdoc] at hres
  have hclamp : t.lane vd i = unsignedClampMid (t.accH.get i) (t.accM.get i) := hres
  refine ⟨fun hhigh => ?_, fun hhigh => ?_, accH_eq_ones_or_zero hacc (by omega) (by omega), fun ⟨hx, hy⟩ => ?_⟩
  · rw [hclamp, hhigh, unsignedClampMid_high_ones]
  · rw [hclamp, hhigh, unsignedClampMid_high_zero]
  · rw [hx, hy, vmulfAcc_corner] at hacc
    obtain ⟨hhigh, hmid⟩ := words_of_acc_eq_corner hacc
    rw [hclamp, hhigh, hmid, unsignedClampMid_high_zero]
    exact ⟨hacc, rfl⟩

/-! ## VMUDL -/

/-- The upper half of an unsigned product is a word, never 0xFFFF (R92). -/
theorem productUU_upper_range (x y : Lane) : 0 ≤ productUU x y / 2 ^ 16 ∧ productUU x y / 2 ^ 16 ≤ 0xFFFE := by
  obtain ⟨hlo, hhi⟩ := productUU_range x y
  omega

theorem vmudlLow_toNat (x y : Lane) :
    ((BitVec.ofInt 16 (productUU x y / 2 ^ 16)).toNat : Int) = productUU x y / 2 ^ 16 := by
  obtain ⟨hlo, hhi⟩ := productUU_upper_range x y
  rw [BitVec.toNat_ofInt]
  omega

/-- Settles O28: it holds, by the words VMUDL joins and the range of the upper half. -/
theorem vmudlTakesUpperHalfOfUnsignedProduct : Obligations.VmudlTakesUpperHalfOfUnsignedProduct := by
  refine ⟨rowDecodes_of_mem_functTable (row := (0x04, .vmudl)) (by simp [functTable]), fun s vd vs vt e =>
    accumulatorOp_completes rfl fun t i hacc hres => ?_⟩
  obtain ⟨-, hmax⟩ := productUU_upper_range (s.lane vs i) (s.lane vt (swz Config.pSwz1 e i))
  have hlow : ((t.accL.get i).toNat : Int) = productUU (s.lane vs i) (s.lane vt (swz Config.pSwz1 e i)) / 2 ^ 16 := by
    rw [← accLow_acc, hacc, vmudlAcc, accLow_joinAcc, vmudlLow_toNat]
  refine ⟨hlow, by omega, ?_, ?_, hres⟩
  · rw [← accMid_acc, hacc, vmudlAcc, accMid_joinAcc]
  · rw [← accHigh_acc, hacc, vmudlAcc, accHigh_joinAcc]

/-! ## VMUDM and VMUDN -/

/-- Settles O29: it holds, since `SU` fits 32 signed bits. -/
theorem vmudmWritesSignedUnsignedProduct : Obligations.VmudmWritesSignedUnsignedProduct := by
  refine ⟨rowDecodes_of_mem_functTable (row := (0x05, .vmudm)) (by simp [functTable]), fun s vd vs vt e =>
    accumulatorOp_completes rfl fun t i hacc hres => ?_⟩
  obtain ⟨hlo, hhi⟩ := productSU_range (s.lane vs i) (s.lane vt (swz Config.pSwz1 e i))
  have hfill := accH_eq_signFill hacc (by omega) (by omega)
  exact ⟨hacc ▸ toAcc_toNat _, hfill, hres, hres.trans (signedClampMid_of_signFill hfill).symm⟩

/-- Settles O30: it holds, since `US` fits 32 signed bits. -/
theorem vmudnWritesUnsignedSignedProduct : Obligations.VmudnWritesUnsignedSignedProduct := by
  refine ⟨rowDecodes_of_mem_functTable (row := (0x06, .vmudn)) (by simp [functTable]), fun s vd vs vt e =>
    accumulatorOp_completes rfl fun t i hacc hres => ?_⟩
  obtain ⟨hlo, hhi⟩ := productUS_range (s.lane vs i) (s.lane vt (swz Config.pSwz1 e i))
  have hfill := accH_eq_signFill hacc (by omega) (by omega)
  exact ⟨hacc ▸ toAcc_toNat _, hfill, hres, hres.trans (signedClampLow_of_signFill hfill _).symm⟩

/-! ## VMUDH -/

/-- A 32-bit product over a low word of 0 is the product moved up one word (R95). -/
theorem vmudhAcc_eq_toAcc (x y : Lane) : vmudhAcc x y = toAcc (productSS x y * 2 ^ 16) := by
  apply BitVec.eq_of_toNat_eq
  have hexact := toAcc_toNat (productSS x y * 2 ^ 16)
  rw [vmudhAcc, BitVec.toNat_append, BitVec.toNat_ofInt, BitVec.toNat_ofNat, Nat.shiftLeft_eq]
  simp only [Nat.zero_mod, Nat.or_zero]
  omega

/-- The three words of an integer moved up one word (R95). -/
theorem words_of_acc_eq_toAcc_shifted {t : State} {i : LaneIx} {n : Int} (hacc : t.acc i = toAcc (n * 2 ^ 16)) :
    t.accL.get i = 0x0000#16 ∧ ((t.accM.get i).toNat : Int) = n % 2 ^ 16 ∧
      ((t.accH.get i).toNat : Int) = n / 2 ^ 16 % 2 ^ 16 := by
  have hexact := toAcc_toNat (n * 2 ^ 16)
  rw [← accLow_acc, ← accMid_acc, ← accHigh_acc, hacc, ← BitVec.toNat_inj, accLow_toNat, accMid_toNat, accHigh_toNat,
    BitVec.toNat_ofNat]
  omega

/-- Settles O31: it holds, since VMUDH's accumulator is `SS` moved up one word, whose upper part is `SS` itself. -/
theorem vmudhWritesSignedProductHigh : Obligations.VmudhWritesSignedProductHigh := by
  refine ⟨rowDecodes_of_mem_functTable (row := (0x07, .vmudh)) (by simp [functTable]), fun s vd vs vt e =>
    accumulatorOp_completes rfl fun t i hacc hres => ?_⟩
  rw [vmudhAcc_eq_toAcc] at hacc
  obtain ⟨hlow, hmid, hhigh⟩ := words_of_acc_eq_toAcc_shifted hacc
  obtain ⟨hlo, hhi⟩ := productSS_range (s.lane vs i) (s.lane vt (swz Config.pSwz1 e i))
  have hvalue := sint32_of_acc_eq_toAcc hacc (by omega) (by omega)
  rw [Int.mul_ediv_cancel _ (by decide)] at hvalue
  refine ⟨hlow, hmid, hhigh, hacc ▸ toAcc_toNat _, hres, ?_, fun hzero => ?_⟩
  · rw [hres, sint16_signedClampMid, hvalue, productSS]
  · rw [hacc, productSS, hzero, zero_mul, toAcc_zero]

end Sys2Proof.Machine
end

section
/-! The multiply-accumulate family (spec/42_accumulate.md R110 to R118): each operation adds an exact integer into the lane's
accumulator mod 2^48, VMADH by words with a carry, the others as a whole; from a zero accumulator that is a multiply. -/

namespace Sys2Proof.Machine

/-- A lane that took an exact addend holds the sum mod 2^48 (R80). -/
theorem accAdd_exact {a b : AccLane} {n : Int} (hacc : b = accAdd a n) : (b.toNat : Int) = (a.toNat + n) % 2 ^ 48 := by
  rw [hacc, accAdd_toNat]

/-! ## VMACF and VMACU -/

/-- The accumulating -32768 corner: +2^31 from zero (R110). -/
theorem vmacfAcc_zero_corner : vmacfAcc 0#48 0x8000#16 0x8000#16 = 0x000080000000#48 := by decide

/-- Settles O32: it holds, since the addend is the exact doubled product. -/
theorem vmacfAccumulatesDoubledProduct : Obligations.VmacfAccumulatesDoubledProduct := by
  refine ⟨rowDecodes_of_mem_functTable (row := (0x08, .vmacf)) (by simp [functTable]), fun s vd vs vt e =>
    accumulatorOp_completes rfl fun t i hacc hres => ?_⟩
  refine ⟨accAdd_exact hacc, hres, fun ⟨hzero, hx, hy⟩ => ?_⟩
  rw [hzero, hx, hy, vmacfAcc_zero_corner] at hacc
  rw [hres, ← accHigh_acc, ← accMid_acc, hacc]
  exact ⟨rfl, by decide⟩

/-- A lane's 48-bit value is `v·2^16` and its low word (R23, R70). -/
theorem sint48_acc (t : State) (i : LaneIx) :
    sint48 (t.acc i) = sint32 (t.accH.get i) (t.accM.get i) * 65536 + (t.accL.get i).toNat :=
  sint48_joinAcc _ _ _

/-- VMACU's clamp by the range of the 48-bit accumulator: the low word does not move the value across a bound (R73, R111). -/
theorem unsignedClampMidMACU_acc (t : State) (i : LaneIx) :
    unsignedClampMidMACU (t.accH.get i) (t.accM.get i) =
      if sint48 (t.acc i) < 0 then 0x0000#16 else if 2 ^ 32 ≤ sint48 (t.acc i) then 0xFFFF#16
      else if 2 ^ 31 ≤ sint48 (t.acc i) then 0x0000#16 else t.accM.get i := by
  have hvalue := sint48_acc t i
  have hlow := (t.accL.get i).isLt
  have hneg : sint48 (t.acc i) < 0 ↔ sint32 (t.accH.get i) (t.accM.get i) < 0 := by omega
  have hhigh : 2 ^ 32 ≤ sint48 (t.acc i) ↔ 0xFFFF < sint32 (t.accH.get i) (t.accM.get i) := by omega
  have hmid : 2 ^ 31 ≤ sint48 (t.acc i) ↔ 0x8000 ≤ sint32 (t.accH.get i) (t.accM.get i) := by omega
  simp only [unsignedClampMidMACU_eq, hneg, hhigh, hmid]

/-- Settles O33: it holds, by VMACF's accumulation and the range of the accumulator that selects the clamp's branch. -/
theorem vmacuAccumulatesAndClampsUnsigned : Obligations.VmacuAccumulatesAndClampsUnsigned := by
  refine ⟨rowDecodes_of_mem_functTable (row := (0x09, .vmacu)) (by simp [functTable]), fun s vd vs vt e =>
    accumulatorOp_completes rfl fun t i hacc hres => ?_⟩
  refine ⟨accAdd_exact hacc, hres, fun hdoc => ?_⟩
  rw [hdoc] at hres
  have hclamp := hres.trans (unsignedClampMidMACU_acc t i)
  refine ⟨fun hneg => ?_, fun hhigh => ?_, fun hmid hhigh => ?_, fun hneg hmid => ?_⟩
  · rw [hclamp, if_pos hneg]
  · rw [hclamp, if_neg (by omega), if_pos hhigh]
  · rw [hclamp, if_neg (by omega), if_neg (by omega), if_pos hmid]
  · rw [hclamp, if_neg (by omega), if_neg (by omega), if_neg (by omega)]

/-! ## VMADL, VMADM and VMADN -/

/-- Settles O34: it holds, since the addend is the exact upper half of `UU`. -/
theorem vmadlAccumulatesUpperHalf : Obligations.VmadlAccumulatesUpperHalf :=
  ⟨rowDecodes_of_mem_functTable (row := (0x0C, .vmadl)) (by simp [functTable]), fun _ _ _ _ _ =>
    accumulatorOp_completes rfl fun _ _ hacc hres => ⟨accAdd_exact hacc, hres⟩⟩

/-- Settles O35: it holds, since the addend is the exact `SU`. -/
theorem vmadmAccumulatesSignedUnsigned : Obligations.VmadmAccumulatesSignedUnsigned :=
  ⟨rowDecodes_of_mem_functTable (row := (0x0D, .vmadm)) (by simp [functTable]), fun _ _ _ _ _ =>
    accumulatorOp_completes rfl fun _ _ hacc hres => ⟨accAdd_exact hacc, hres⟩⟩

/-- Settles O36: it holds, since the addend is the exact `US`. -/
theorem vmadnAccumulatesUnsignedSigned : Obligations.VmadnAccumulatesUnsignedSigned :=
  ⟨rowDecodes_of_mem_functTable (row := (0x0E, .vmadn)) (by simp [functTable]), fun _ _ _ _ _ =>
    accumulatorOp_completes rfl fun _ _ hacc hres => ⟨accAdd_exact hacc, hres⟩⟩

/-! ## VMADH -/

/-- `P[15:0]` of the 32-bit pattern of an exact integer (R13, R115). -/
theorem lowHalf_ofInt_toNat (p : Int) : (((BitVec.ofInt 32 p).extractLsb' 0 16).toNat : Int) = p % 2 ^ 16 := by
  rw [extractLsb'_toNat_div, BitVec.toNat_ofInt]
  omega

/-- `P[31:16]` of the 32-bit pattern of an exact integer (R13, R115). -/
theorem highHalf_ofInt_toNat (p : Int) :
    (((BitVec.ofInt 32 p).extractLsb' 16 16).toNat : Int) = p / 2 ^ 16 % 2 ^ 16 := by
  rw [extractLsb'_toNat_div, BitVec.toNat_ofInt]
  omega

theorem vmadhMidSum_eq (m x y : Lane) : (vmadhMidSum m x y : Int) = m.toNat + productSS x y % 2 ^ 16 := by
  rw [vmadhMidSum, Nat.cast_add, lowHalf_ofInt_toNat]

theorem vmadhMid_toNat (m x y : Lane) :
    ((vmadhMid m x y).toNat : Int) = (m.toNat + productSS x y % 2 ^ 16) % 2 ^ 16 := by
  rw [vmadhMid, BitVec.toNat_ofNat, ← vmadhMidSum_eq]
  rfl

theorem vmadhHigh_toNat (h m x y : Lane) :
    ((vmadhHigh h m x y).toNat : Int) =
      (h.toNat + productSS x y / 2 ^ 16 % 2 ^ 16 + (m.toNat + productSS x y % 2 ^ 16) / 2 ^ 16) % 2 ^ 16 := by
  rw [vmadhHigh, BitVec.toNat_ofNat, ← vmadhMidSum_eq, ← highHalf_ofInt_toNat]
  rfl

/-- VMADH's addition by words, low word kept, is AccAdd of the product moved up one word (R80, R115). -/
theorem joinAcc_vmadh (h m l x y : Lane) :
    joinAcc (vmadhHigh h m x y) (vmadhMid m x y) l = accAdd (joinAcc h m l) (productSS x y * 2 ^ 16) := by
  apply BitVec.eq_of_toNat_eq
  have hsum := accAdd_toNat (joinAcc h m l) (productSS x y * 2 ^ 16)
  have hhigh := vmadhHigh_toNat h m x y
  have hmid := vmadhMid_toNat m x y
  have hlow := l.isLt
  rw [joinAcc_toNat] at hsum ⊢
  omega

/-- Settles O37: it holds, by the exact sums of the mid and high words, which make up the whole lane's sum. -/
theorem vmadhAccumulatesIntoMidAndHigh : Obligations.VmadhAccumulatesIntoMidAndHigh := by
  refine ⟨rowDecodes_of_mem_functTable (row := (0x0F, .vmadh)) (by simp [functTable]), fun s vd vs vt e => ?_⟩
  obtain ⟨hhigh, hmid, hres, hframe⟩ :=
    accumulatorHighMidOp_spec ⟨vd, vs, vt, e⟩ vmadhHigh (fun _ m x y => vmadhMid m x y) signedClampMid s
  refine ⟨_, withOperands_inRange .., hframe, fun i => ⟨?_, ?_, rfl, ?_, hres i⟩⟩
  · rw [hmid]
    exact vmadhMid_toNat ..
  · rw [hhigh]
    exact vmadhHigh_toNat ..
  · rw [State.acc, hhigh, hmid]
    exact accAdd_exact (joinAcc_vmadh ..)

/-! ## From a zero accumulator -/

/-- VMADH's shape as an operation on whole accumulator lanes (R115). -/
theorem accumulatorHighMidOp_vmadh (o : Operands) (g : Lane → Lane → Lane) (s : State) :
    accumulatorHighMidOp o vmadhHigh (fun _ m x y => vmadhMid m x y) g s =
      accumulatorOp o (fun a x y => accAdd a (productSS x y * 2 ^ 16)) (fun h m _ => g h m) s := by
  have hkept : (laneMap fun i => s.accL.get i) = s.accL := lanes_ext (laneMap_get _)
  simp only [accumulatorHighMidOp, accumulatorOp, State.acc, ← joinAcc_vmadh, State.writeAcc, State.writeAccHighMid,
    accHigh_joinAcc, accMid_joinAcc, accLow_joinAcc, hkept]

/-- An accumulate operation gives a lane whose accumulator is zero the new accumulator and the result that a multiply, which
does not read the accumulator, gives it (R117). -/
def AgreeFromZero (f : AccLane → Lane → Lane → AccLane) (f' : Lane → Lane → AccLane) (g g' : Lane → Lane → Lane → Lane) :
    Prop :=
  ∀ x y : Lane, f 0#48 x y = f' x y ∧
    g (accHigh (f' x y)) (accMid (f' x y)) (accLow (f' x y)) = g' (accHigh (f' x y)) (accMid (f' x y)) (accLow (f' x y))

section agreeFromZero

variable {f : AccLane → Lane → Lane → AccLane} {f' : Lane → Lane → AccLane} {g g' : Lane → Lane → Lane → Lane}

/-- With every lane's accumulator zero, the operations give the same state. -/
theorem accumulatorOp_eq_of_agreeFromZero (h : AgreeFromZero f f' g g') (o : Operands) {s : State}
    (hzero : ∀ i, s.acc i = 0#48) : accumulatorOp o f g s = accumulatorOp o (fun _ x y => f' x y) g' s := by
  simp only [accumulatorOp, hzero, (h _ _).1, (h _ _).2]

/-- In a lane whose accumulator is zero, the operations give the same accumulator and the same result. -/
theorem accumulatorOp_lane_of_agreeFromZero (h : AgreeFromZero f f' g g') (o : Operands) {s : State} {i : LaneIx}
    (hzero : s.acc i = 0#48) :
    (accumulatorOp o f g s).acc i = (accumulatorOp o (fun _ x y => f' x y) g' s).acc i ∧
      (accumulatorOp o f g s).lane o.vd i = (accumulatorOp o (fun _ x y => f' x y) g' s).lane o.vd i := by
  obtain ⟨hacc, hlane, -⟩ := accumulatorOp_spec o f g s
  obtain ⟨hacc', hlane', -⟩ := accumulatorOp_spec o (fun _ x y => f' x y) g' s
  obtain ⟨hnew, hresult⟩ := h (s.vsLane o i) (s.vtLane o i)
  have hsame : (accumulatorOp o f g s).acc i = (accumulatorOp o (fun _ x y => f' x y) g' s).acc i := by
    rw [hacc, hacc', hzero, hnew]
  refine ⟨hsame, ?_⟩
  rw [hlane, hlane', ← accHigh_acc, ← accMid_acc, ← accLow_acc, ← accHigh_acc, ← accMid_acc, ← accLow_acc, hsame, hacc',
    hresult]

end agreeFromZero

/-- An integer of 32 signed bits is in the signed clamps' range: its mid word is kept (R70, R117). -/
theorem signedClampMid_toAcc {n : Int} (hlo : -2 ^ 31 ≤ n) (hhi : n < 2 ^ 31) :
    signedClampMid (accHigh (toAcc n)) (accMid (toAcc n)) = accMid (toAcc n) := by
  have hvalue := sint32_toAcc (x := n) (by omega) (by omega)
  exact signedClampMid_inRange (by omega) (by omega)

/-- An integer of 32 signed bits is in the signed clamps' range: its low word is kept (R71, R117). -/
theorem signedClampLow_toAcc {n : Int} (hlo : -2 ^ 31 ≤ n) (hhi : n < 2 ^ 31) (l : Lane) :
    signedClampLow (accHigh (toAcc n)) (accMid (toAcc n)) l = l := by
  have hvalue := sint32_toAcc (x := n) (by omega) (by omega)
  exact signedClampLow_inRange l (by omega) (by omega)

/-- VMUDL's words are the upper half of `UU` as a whole (R92). -/
theorem vmudlAcc_eq_toAcc (x y : Lane) : vmudlAcc x y = toAcc (productUU x y / 2 ^ 16) := by
  apply BitVec.eq_of_toNat_eq
  have hexact := toAcc_toNat (productUU x y / 2 ^ 16)
  have hlow := vmudlLow_toNat x y
  obtain ⟨hlo, hhi⟩ := productUU_upper_range x y
  rw [vmudlAcc, joinAcc_toNat, BitVec.toNat_ofNat]
  omega

theorem vmadl_agreeFromZero :
    AgreeFromZero vmadlAcc vmudlAcc signedClampLow (fun _ _ l => l) := by
  intro x y
  obtain ⟨hlo, hhi⟩ := productUU_upper_range x y
  rw [vmudlAcc_eq_toAcc]
  exact ⟨accAdd_zero_left _, signedClampLow_toAcc (by omega) (by omega) _⟩

theorem vmadm_agreeFromZero :
    AgreeFromZero vmadmAcc vmudmAcc (fun h m _ => signedClampMid h m) (fun _ m _ => m) := by
  intro x y
  obtain ⟨hlo, hhi⟩ := productSU_range x y
  exact ⟨accAdd_zero_left _, signedClampMid_toAcc (by omega) (by omega)⟩

theorem vmadn_agreeFromZero :
    AgreeFromZero vmadnAcc vmudnAcc signedClampLow (fun _ _ l => l) := by
  intro x y
  obtain ⟨hlo, hhi⟩ := productUS_range x y
  exact ⟨accAdd_zero_left _, signedClampLow_toAcc (by omega) (by omega) _⟩

theorem vmadh_agreeFromZero (g : Lane → Lane → Lane → Lane) :
    AgreeFromZero (fun a x y => accAdd a (productSS x y * 2 ^ 16)) vmudhAcc g g :=
  fun x y => ⟨(accAdd_zero_left _).trans (vmudhAcc_eq_toAcc x y).symm, rfl⟩

/-- Each pair of partners is two operations on whole lanes that agree from zero (R117). -/
theorem accumulatePartners_shape {pair : (Nat → Nat → Nat → Nat → Instr) × (Nat → Nat → Nat → Nat → Instr)}
    (hpair : pair ∈ accumulatePartners) :
    ∃ f f' g g', AgreeFromZero f f' g g' ∧ ∀ vd vs vt e s,
      exec (pair.1 vd vs vt e) s = withOperands vd vs vt e (fun o => accumulatorOp o f g s) ∧
      exec (pair.2 vd vs vt e) s = withOperands vd vs vt e (fun o => accumulatorOp o (fun _ x y => f' x y) g' s) := by
  simp only [accumulatePartners, List.mem_cons, List.not_mem_nil, or_false] at hpair
  obtain rfl | rfl | rfl | rfl := hpair
  · exact ⟨_, _, _, _, vmadl_agreeFromZero, fun _ _ _ _ _ => ⟨rfl, rfl⟩⟩
  · exact ⟨_, _, _, _, vmadm_agreeFromZero, fun _ _ _ _ _ => ⟨rfl, rfl⟩⟩
  · exact ⟨_, _, _, _, vmadn_agreeFromZero, fun _ _ _ _ _ => ⟨rfl, rfl⟩⟩
  · refine ⟨_, _, _, _, vmadh_agreeFromZero _, fun vd vs vt e s => ⟨?_, rfl⟩⟩
    exact congrArg (withOperands vd vs vt e) (funext fun o => accumulatorHighMidOp_vmadh o signedClampMid s)

/-- Partners answer the same from an accumulator that is zero in every lane, out-of-range operands included (R117). -/
theorem exec_accumulatePartners {pair : (Nat → Nat → Nat → Nat → Instr) × (Nat → Nat → Nat → Nat → Instr)}
    (hpair : pair ∈ accumulatePartners) {s : State} (hzero : ∀ i, s.acc i = 0#48) (vd vs vt e : Nat) :
    exec (pair.1 vd vs vt e) s = exec (pair.2 vd vs vt e) s := by
  obtain ⟨f, f', g, g', hagree, hexec⟩ := accumulatePartners_shape hpair
  obtain ⟨haccumulate, hmultiply⟩ := hexec vd vs vt e s
  rw [haccumulate, hmultiply, funext fun o => accumulatorOp_eq_of_agreeFromZero hagree o hzero]

/-- VMULF adds its rounding term to what VMACF leaves from zero (R117). -/
theorem vmulfAcc_eq_vmacfAcc_add (x y : Lane) : vmulfAcc x y = vmacfAcc 0#48 x y + 0x8000#48 := by
  rw [vmacfAcc, accAdd_zero_left, vmulfAcc, toAcc, BitVec.ofInt_add]
  rfl

/-- VMACF on operands in range (R110). -/
theorem exec_vmacf (s : State) (vd vs vt : RegIx) (e : Fin 16) :
    exec (.vmacf vd.val vs.val vt.val e.val) s =
      .next (accumulatorOp ⟨vd, vs, vt, e⟩ vmacfAcc (fun h m _ => signedClampMid h m) s) :=
  withOperands_inRange vd vs vt e _

/-- Settles O39: it holds, since a partner's product fits the signed clamp's range and is what is added to zero. -/
theorem accumulateFromZeroEqualsMultiply : Obligations.AccumulateFromZeroEqualsMultiply := by
  refine ⟨fun s vd vs vt e hzero => ⟨?_, ?_, ?_, ?_⟩, fun pair hpair s vd vs vt e => ?_, fun s vd vs vt e => ?_⟩
  · exact exec_accumulatePartners (pair := (.vmadl, .vmudl)) (by simp [accumulatePartners]) hzero vd vs vt e
  · exact exec_accumulatePartners (pair := (.vmadm, .vmudm)) (by simp [accumulatePartners]) hzero vd vs vt e
  · exact exec_accumulatePartners (pair := (.vmadn, .vmudn)) (by simp [accumulatePartners]) hzero vd vs vt e
  · exact exec_accumulatePartners (pair := (.vmadh, .vmudh)) (by simp [accumulatePartners]) hzero vd vs vt e
  · obtain ⟨f, f', g, g', hagree, hexec⟩ := accumulatePartners_shape hpair
    obtain ⟨haccumulate, hmultiply⟩ := hexec vd.val vs.val vt.val e.val s
    exact ⟨_, _, haccumulate.trans (withOperands_inRange ..), hmultiply.trans (withOperands_inRange ..),
      fun i hzero => accumulatorOp_lane_of_agreeFromZero hagree ⟨vd, vs, vt, e⟩ hzero⟩
  · refine ⟨_, _, exec_vmacf s vd vs vt e, exec_vmulf s vd vs vt e, fun i hzero => ?_⟩
    obtain ⟨hvmacf, -, -⟩ := accumulatorOp_spec ⟨vd, vs, vt, e⟩ vmacfAcc (fun h m _ => signedClampMid h m) s
    obtain ⟨hvmulf, -, -⟩ :=
      accumulatorOp_spec ⟨vd, vs, vt, e⟩ (fun _ x y => vmulfAcc x y) (fun h m _ => signedClampMid h m) s
    rw [hvmacf, hvmulf, hzero, vmulfAcc_eq_vmacfAcc_add]
    exact ⟨rfl, by simp⟩

/-! ## VMACF twice -/

/-- A register that is none of the pieces written keeps its lanes. -/
theorem lane_of_sameOutside {ps : List Piece} {s t : State} (h : sameOutside ps s t) {r : RegIx} (hr : .vr r ∉ ps)
    (i : LaneIx) : t.lane r i = s.lane r i := by
  obtain ⟨hpieces, -, -⟩ := h
  have hvr : s.vr.get r = t.vr.get r := hpieces (.vr r) hr
  rw [State.lane, State.lane, hvr]

/-- Settles O40: it holds, by two steps of O32, the second of which reads the first's operands. -/
theorem twoVmacfFromZeroAddUp : Obligations.TwoVmacfFromZeroAddUp := by
  intro s vd vs vt e hvs hvt
  obtain ⟨-, hvmacf⟩ := vmacfAccumulatesDoubledProduct
  obtain ⟨t, hfirst, hframe, hlanes⟩ := hvmacf s vd vs vt e
  obtain ⟨u, hsecond, -, hlanes'⟩ := hvmacf t vd vs vt e
  refine ⟨t, u, hfirst, hsecond, fun i hzero => ?_⟩
  obtain ⟨hacc, -, -⟩ := hlanes i
  obtain ⟨hacc', -, -⟩ := hlanes' i
  rw [lane_of_sameOutside hframe (by simp [hvs.symm]), lane_of_sameOutside hframe (by simp [hvt.symm])] at hacc'
  rw [hzero, BitVec.toNat_zero] at hacc
  omega

end Sys2Proof.Machine
end

section
/-! The compare-select family (spec/43_compare_select.md R131 to R136): what a lane decides, as one equation for VCL and one for
VCR, and VCR's decision by the signs of its operands. -/

namespace Sys2Proof.Machine

/-! ## Completion -/

/-- Lane `i` holds what a compare-select operation decided for it (R133, R134). -/
structure HoldsChoice (vd : RegIx) (i : LaneIx) (t : State) (c : LaneChoice) : Prop where
  accL : t.accL.get i = c.res
  vd : t.lane vd i = c.res
  le : t.lePrev i = c.le
  ge : t.gePrev i = c.ge

/-- An instruction of the shape `compareSelectOp` completes on operands in range, keeps its frame, clears VCO and VCE, and
leaves in every lane what it decided there (R85, R133, R134). -/
theorem compareSelectOp_completes {ins : Instr} {s : State} {vd vs vt : RegIx} {e : Fin 16}
    {c : Operands → LaneIx → LaneChoice}
    (hins : exec ins s = withOperands vd.val vs.val vt.val e.val fun o => compareSelectOp o (c o) s) :
    ∃ t, exec ins s = .next t ∧ sameOutside [.vr vd, .accL, .vco, .vcc, .vce] s t ∧ t.vco = 0#16 ∧ t.vce = 0#8 ∧
      ∀ i, HoldsChoice vd i t (c ⟨vd, vs, vt, e⟩ i) := by
  obtain ⟨hlow, hlane, hle, hge, hvco, hvce, hframe⟩ := compareSelectOp_spec ⟨vd, vs, vt, e⟩ (c ⟨vd, vs, vt, e⟩) s
  exact ⟨_, hins.trans (withOperands_inRange ..), hframe, hvco, hvce, fun i => ⟨hlow i, hlane i, hle i, hge i⟩⟩

/-- A VCL completes with VCL's decision in every lane, from the flags before it (R131). -/
theorem exec_vcl_completes (s : State) (vd vs vt : RegIx) (e : Fin 16) :
    ∃ t, exec (.vcl vd.val vs.val vt.val e.val) s = .next t ∧
      sameOutside [.vr vd, .accL, .vco, .vcc, .vce] s t ∧ t.vco = 0#16 ∧ t.vce = 0#8 ∧
      ∀ i, HoldsChoice vd i t (vclLane (s.lane vs i) (s.lane vt (swz Config.pSwz1 e i)) (s.carry i) (s.eqFlag i)
        (s.lePrev i) (s.gePrev i) (s.ce i)) :=
  compareSelectOp_completes
    (c := fun o i => vclLane (s.vsLane o i) (s.vtLane o i) (s.carry i) (s.eqFlag i) (s.lePrev i) (s.gePrev i) (s.ce i)) rfl

/-- A VCR completes with VCR's decision in every lane, from the operands alone (R132). -/
theorem exec_vcr_completes (s : State) (vd vs vt : RegIx) (e : Fin 16) :
    ∃ t, exec (.vcr vd.val vs.val vt.val e.val) s = .next t ∧
      sameOutside [.vr vd, .accL, .vco, .vcc, .vce] s t ∧ t.vco = 0#16 ∧ t.vce = 0#8 ∧
      ∀ i, HoldsChoice vd i t (vcrLane (s.lane vs i) (s.lane vt (swz Config.pSwz1 e i))) :=
  compareSelectOp_completes (c := fun o i => vcrLane (s.vsLane o i) (s.vtLane o i)) rfl

/-! ## VCL -/

/-- The truth table of the exact 17-bit sum: `le` at a sum of 0, and with `ce` up to the carry alone (R131). -/
theorem vclSumLe_eq (x y : Lane) (ce : Bool) :
    vclSumLe x y ce = (decide (x.toNat + y.toNat = 0) || (ce && decide (x.toNat + y.toNat ≤ 0x10000))) := by
  have hx := x.isLt
  have hy := y.isLt
  rw [vclSumLe, uint16_eq, uint16_eq, Bool.eq_iff_iff]
  cases ce
  · simp only [Bool.false_and, Bool.not_false, Bool.true_and, Bool.false_or, Bool.or_false, Bool.and_eq_true,
      decide_eq_true_eq]
    omega
  · simp only [Bool.true_and, Bool.not_true, Bool.false_and, Bool.or_false, Bool.or_eq_true, decide_eq_true_eq]
    omega

/-- The wrapped negation of R131 is the pattern's own. -/
theorem ofInt_sub_uint16 (y : Lane) : BitVec.ofInt 16 (2 ^ 16 - uint16 y) = -y := by
  apply BitVec.eq_of_toNat_eq
  rw [BitVec.toNat_ofInt, BitVec.toNat_neg, uint16_eq]
  omega

/-- VCL's decision: `le` and `ge` first, then the value they select (R131). -/
theorem vclLane_eq (x y : Lane) (carry eq lePrev gePrev ce : Bool) :
    vclLane x y carry eq lePrev gePrev ce =
      let le := if carry && eq then decide (x.toNat + y.toNat = 0) || (ce && decide (x.toNat + y.toNat ≤ 0x10000))
        else lePrev
      let ge := if !carry && eq then decide (y.toNat ≤ x.toNat) else gePrev
      { le := le, ge := ge, res := if carry then (if le then -y else x) else (if ge then y else x) } := by
  have hcompare : decide (uint16 x - uint16 y ≥ 0) = decide (y.toNat ≤ x.toNat) :=
    decide_eq_decide.mpr (by rw [uint16_eq, uint16_eq]; omega)
  rw [vclLane, vclSumLe_eq, ofInt_sub_uint16, hcompare]
  cases carry <;> rfl

/-- Settles O42: it holds, by VCL's decision in each lane. -/
theorem vclSelectsWithCarryAndUnsignedCompare : Obligations.VclSelectsWithCarryAndUnsignedCompare := by
  refine ⟨rowDecodes_of_mem_functTable (row := (0x24, .vcl)) (by simp [functTable]), fun s vd vs vt e => ?_⟩
  obtain ⟨t, hexec, hframe, hvco, hvce, hlanes⟩ := exec_vcl_completes s vd vs vt e
  refine ⟨t, hexec, hframe, fun i => ?_⟩
  have hchoice := hlanes i
  rw [vclLane_eq] at hchoice
  exact ⟨hchoice.accL, hchoice.vd, hchoice.le, hchoice.ge, hvco, hvce⟩

/-! ## VCR -/

theorem msb_eq_sint16_neg (x : Lane) : x.msb = decide (sint16 x < 0) := BitVec.msb_eq_toInt

theorem sint16_not (y : Lane) : sint16 (~~~y) = -sint16 y - 1 := by
  have hy := y.isLt
  rw [sint16_eq, sint16_eq, BitVec.msb_not, BitVec.toNat_not]
  cases y.msb <;> simp <;> omega

/-- VCR's decision: `le` and `ge` by the signed readings' signs, then the value they select (R132). -/
theorem vcrLane_eq (x y : Lane) :
    vcrLane x y =
      let a := sint16 x
      let b := sint16 y
      let opposite := decide (a < 0) != decide (b < 0)
      let le := if opposite then decide (a + b < 0) else decide (b < 0)
      let ge := if opposite then decide (b < 0) else decide (0 ≤ a - b)
      { le := le, ge := ge, res := if opposite then (if le then ~~~y else x) else (if ge then y else x) } := by
  have hnot : y ^^^ 0xFFFF#16 = ~~~y := BitVec.xor_allOnes
  rw [vcrLane, msb_eq_sint16_neg, msb_eq_sint16_neg, hnot]
  by_cases hsigns : decide (sint16 x < 0) = decide (sint16 y < 0)
  · simp [hsigns]
  · simp [hsigns]

/-- Settles O43: it holds, by VCR's decision in each lane. -/
theorem vcrClipsBySignWithoutReadingFlags : Obligations.VcrClipsBySignWithoutReadingFlags := by
  refine ⟨rowDecodes_of_mem_functTable (row := (0x26, .vcr)) (by simp [functTable]), fun s vd vs vt e => ?_⟩
  obtain ⟨t, hexec, hframe, hvco, hvce, hlanes⟩ := exec_vcr_completes s vd vs vt e
  refine ⟨t, hexec, hframe, fun i => ?_⟩
  have hchoice := hlanes i
  rw [vcrLane_eq] at hchoice
  exact ⟨hchoice.accL, hchoice.vd, hchoice.le, hchoice.ge, hvco, hvce⟩

/-! ## VCR as a clip, and VCL beside it -/

section nonnegativeVT

variable {x y : Lane} (hy : 0 ≤ sint16 y)
include hy

/-- At or above 0 a lane meets the upper bound only (R135). -/
theorem vcrLane_of_nonneg (hx : 0 ≤ sint16 x) :
    vcrLane x y =
      { le := false, ge := decide (sint16 y ≤ sint16 x), res := if sint16 y ≤ sint16 x then y else x } := by
  rw [vcrLane_eq]
  simp [hx.not_gt, hy.not_gt]

/-- Below 0 a lane meets the lower bound only (R135). -/
theorem vcrLane_of_neg (hx : sint16 x < 0) :
    vcrLane x y =
      { le := decide (sint16 x + sint16 y < 0), ge := false, res := if sint16 x + sint16 y < 0 then ~~~y else x } := by
  rw [vcrLane_eq]
  simp [hx, hy.not_gt]

theorem sint16_vcrLane_res_of_nonneg (hx : 0 ≤ sint16 x) :
    sint16 (vcrLane x y).res = min (sint16 x) (sint16 y) := by
  rw [vcrLane_of_nonneg hy hx, min_comm, min_def]
  exact apply_ite sint16 _ _ _

theorem sint16_vcrLane_res_of_neg (hx : sint16 x < 0) :
    sint16 (vcrLane x y).res = max (sint16 x) (-sint16 y - 1) := by
  rw [vcrLane_of_neg hy hx]
  dsimp only
  split
  · rw [sint16_not]
    omega
  · omega

end nonnegativeVT

/-- Settles O44: it holds, since the sign of VS says which bound VCR compares with. -/
theorem vcrClipsToOnesComplementRange : Obligations.VcrClipsToOnesComplementRange := by
  intro s vd vs vt e
  obtain ⟨t, hexec, -, -, -, hlanes⟩ := exec_vcr_completes s vd vs vt e
  refine ⟨t, hexec, fun i => ?_⟩
  obtain ⟨-, hres, hle, hge⟩ := hlanes i
  intro a b hb
  refine ⟨fun ha => ?_, fun ha => ?_, ?_⟩
  · rw [hres, sint16_vcrLane_res_of_nonneg hb ha]
  · rw [hres, sint16_vcrLane_res_of_neg hb ha]
  rw [hle, hge]
  rcases lt_or_ge a 0 with ha | ha
  · rw [vcrLane_of_neg hb ha, decide_eq_true_eq]
    exact ⟨by omega, by simp; omega⟩
  · rw [vcrLane_of_nonneg hb ha, decide_eq_true_eq]
    exact ⟨by simp; omega, Iff.rfl⟩

/-- With no flag of VCO set, a lane of VCL compares its operands unsigned and takes the smaller (R136). -/
theorem vclLane_of_vco_clear (x y : Lane) (lePrev gePrev ce : Bool) :
    vclLane x y false true lePrev gePrev ce =
      { le := lePrev, ge := decide (y.toNat ≤ x.toNat), res := if y.toNat ≤ x.toNat then y else x } := by
  simp [vclLane_eq]

theorem sint16_eq_toNat_of_nonneg {x : Lane} (hx : 0 ≤ sint16 x) : sint16 x = x.toNat := by
  have hmsb : x.msb = false := by simpa [msb_eq_sint16_neg] using hx
  simp [sint16_eq, hmsb]

/-- On operands at or above 0 the signed and unsigned compares agree, and VCR decides as VCL does but for `le` (R136). -/
theorem vcrLane_of_nonneg_unsigned {x y : Lane} (hx : 0 ≤ sint16 x) (hy : 0 ≤ sint16 y) :
    vcrLane x y =
      { le := false, ge := decide (y.toNat ≤ x.toNat), res := if y.toNat ≤ x.toNat then y else x } := by
  simp only [vcrLane_of_nonneg hy hx, sint16_eq_toNat_of_nonneg hx, sint16_eq_toNat_of_nonneg hy, Int.ofNat_le]

/-- Settles O45: it holds, by VCL's decision with VCO clear and VCR's on operands at or above 0. -/
theorem vclWithVcoClearIsUnsignedMinimum : Obligations.VclWithVcoClearIsUnsignedMinimum := by
  intro s vd vs vt e hvco
  obtain ⟨t, hvcl, -, -, -, hlanes⟩ := exec_vcl_completes s vd vs vt e
  obtain ⟨u, hvcr, -, -, -, hlanes'⟩ := exec_vcr_completes s vd vs vt e
  refine ⟨t, u, hvcl, hvcr, fun i => ?_⟩
  intro x y
  have hchoice := hlanes i
  rw [State.carry, State.eqFlag, hvco, BitVec.getLsbD_zero, BitVec.getLsbD_zero, Bool.not_false,
    vclLane_of_vco_clear] at hchoice
  obtain ⟨-, hres, hle, hge⟩ := hchoice
  refine ⟨by rw [hge, decide_eq_true_eq], ?_, ?_, hle, fun hx hy => ?_⟩
  · rw [hres, min_comm, min_def]
    exact apply_ite BitVec.toNat _ _ _
  · simp only [hres, hge, decide_eq_true_eq, x, y]
  · have hchoice' := hlanes' i
    have hmin := sint16_vcrLane_res_of_nonneg hy hx
    rw [← hchoice'.vd] at hmin
    rw [vcrLane_of_nonneg_unsigned hx hy] at hchoice'
    exact ⟨hchoice'.ge.trans hge.symm, hchoice'.vd.trans hres.symm, hmin, hchoice'.le⟩

end Sys2Proof.Machine
end

section
/-! The flag transfer port (spec/44_flag_transfer.md R150 to R154): what a select of the table of R31 writes and reads, the two
instruction words that drive the port, and what each request returns to the requester. -/

namespace Sys2Proof.Machine

/-! ## The selects of the table -/

section flagRow

variable {row : Nat × FlagReg × Nat} (hrow : row ∈ flagTable)

include hrow

theorem flagReg?_flagTable : flagReg? row.1 = some row.2.1 := by
  revert row
  simp [flagTable, flagReg?]

/-- A written flag register holds the value cut to the register's width (R150). -/
theorem flagNumber_writeFlag (s : State) (v : Word) :
    flagNumber (s.writeFlag row.2.1 v) row.2.1 = v.toNat % 2 ^ row.2.2 := by
  revert row
  simp [flagTable, flagNumber]

end flagRow

/-- What the port reads is the register's content as a 32-bit number: zero-extended (R151). -/
theorem readFlag_eq (s : State) (reg : FlagReg) : s.readFlag reg = BitVec.ofNat 32 (flagNumber s reg) := by
  cases reg with
  | vco => exact (BitVec.ofNat_toNat 32 s.vco).symm
  | vcc => exact (BitVec.ofNat_toNat 32 s.vcc).symm
  | vce => exact (BitVec.ofNat_toNat 32 s.vce).symm

theorem writeFlag_vco_eq (s : State) (v : Word) : s.writeFlag .vco v = { s with vco := v.setWidth 16 } := by
  rw [BitVec.setWidth_eq_extractLsb' (by decide), State.writeFlag]

theorem writeFlag_vcc_eq (s : State) (v : Word) : s.writeFlag .vcc v = { s with vcc := v.setWidth 16 } := by
  rw [BitVec.setWidth_eq_extractLsb' (by decide), State.writeFlag]

theorem writeFlag_vce_eq (s : State) (v : Word) : s.writeFlag .vce v = { s with vce := v.setWidth 8 } := by
  rw [BitVec.setWidth_eq_extractLsb' (by decide), State.writeFlag]

/-! ## The two transactions, and the words that drive them -/

theorem flagWrite_flagTable {row : Nat × FlagReg × Nat} (hrow : row ∈ flagTable) (v : Word) (s : State) :
    flagWrite row.1 v s = .next (s.writeFlag row.2.1 v) := by
  simp [flagWrite, flagReg?_flagTable hrow]

theorem flagRead_flagTable {row : Nat × FlagReg × Nat} (hrow : row ∈ flagTable) (store : FlagReg → Word → State)
    (s : State) : flagRead row.1 store s = .next (store row.2.1 (BitVec.ofNat 32 (flagNumber s row.2.1))) := by
  simp [flagRead, flagReg?_flagTable hrow, readFlag_eq]

theorem serve_flagWrite (sel : Nat) (v : Word) (s : State) : serve (.flagWrite sel v) s = flagWrite sel v s := rfl

theorem serve_flagRead (sel : Nat) (s : State) :
    serve (.flagRead sel) s = flagRead sel (fun reg v => s.reply (.flag reg v)) s := rfl

theorem exec_ctc2 (rt rd : RegIx) (s : State) : exec (.ctc2 rt rd) s = flagWrite rd.val (s.gpr.get rt) s := rfl

theorem exec_cfc2 (rt rd : RegIx) (s : State) :
    exec (.cfc2 rt rd) s = flagRead rd.val (fun _ v => s.writeGPR rt v) s := rfl

/-- Everything a `FlagWrite` does, select by select (R150, R152). -/
theorem flagWrite_bySelect (s : State) (v : Word) :
    flagWrite 0 v s = .next { s with vco := v.setWidth 16 } ∧
    flagWrite 1 v s = .next { s with vcc := v.setWidth 16 } ∧
    flagWrite 2 v s = .next { s with vce := v.setWidth 8 } ∧
    ∀ sel, 3 ≤ sel → flagWrite sel v s = .refused (.flagSelInvalid sel) := by
  rw [← writeFlag_vco_eq, ← writeFlag_vcc_eq, ← writeFlag_vce_eq]
  exact ⟨rfl, rfl, rfl, fun _ hsel => flagWrite_outOfRange hsel v s⟩

/-- Everything a `FlagRead` does, select by select, with any use of the value (R151, R152). -/
theorem flagRead_bySelect (store : FlagReg → Word → State) (s : State) :
    flagRead 0 store s = .next (store .vco (BitVec.ofNat 32 s.vco.toNat)) ∧
    flagRead 1 store s = .next (store .vcc (BitVec.ofNat 32 s.vcc.toNat)) ∧
    flagRead 2 store s = .next (store .vce (BitVec.ofNat 32 s.vce.toNat)) ∧
    ∀ sel, 3 ≤ sel → flagRead sel store s = .refused (.flagSelInvalid sel) :=
  ⟨flagRead_flagTable (row := (0, .vco, 16)) (by simp [flagTable]) store s,
    flagRead_flagTable (row := (1, .vcc, 16)) (by simp [flagTable]) store s,
    flagRead_flagTable (row := (2, .vce, 8)) (by simp [flagTable]) store s,
    fun _ hsel => flagRead_outOfRange hsel store s⟩

/-- Settles O13: it holds, since CTC2 and CFC2 are transactions of the port, which refuses these selects. -/
theorem invalidFlagSelectIsRefused : Obligations.InvalidFlagSelectIsRefused := by
  refine ⟨fun sel v s hsel => ?_, fun rt rd s hrd => ?_⟩
  · rw [serve_flagWrite, serve_flagRead]
    exact ⟨flagWrite_outOfRange hsel v s, flagRead_outOfRange hsel _ s⟩
  · rw [exec_ctc2, exec_cfc2]
    exact ⟨flagWrite_outOfRange hrd _ s, flagRead_outOfRange hrd _ s, decodeWord_encode rfl, decodeWord_encode rfl⟩

/-- Settles O46: it holds, since CTC2 is a `FlagWrite` of `GPR[rt]`, which replaces one register. -/
theorem ctc2ReplacesOneFlagRegisterWhole : Obligations.Ctc2ReplacesOneFlagRegisterWhole := by
  refine ⟨fun w hmask => ?_, fun s rt => ?_, flagWrite_bySelect⟩
  · exact ⟨regField w 16, regField w 11, regField_val w 16, regField_val w 11, decodeWord_of_ctc2Mask hmask⟩
  · obtain ⟨hvco, hvcc, hvce, hrefused⟩ := flagWrite_bySelect s (s.gpr.get rt)
    exact ⟨hvco, hvcc, hvce, fun rd => hrefused rd.val⟩

/-- Settles O47: it holds, since CFC2 and the raw `FlagRead` read alike and differ only in where the value goes. -/
theorem cfc2ReadsOneFlagRegisterZeroExtended : Obligations.Cfc2ReadsOneFlagRegisterZeroExtended := by
  refine ⟨fun w hmask => ?_, fun s rt => ?_, fun s => flagRead_bySelect (fun reg v => s.reply (.flag reg v)) s⟩
  · exact ⟨regField w 16, regField w 11, regField_val w 16, regField_val w 11, decodeWord_of_cfc2Mask hmask⟩
  · obtain ⟨hvco, hvcc, hvce, hrefused⟩ := flagRead_bySelect (fun _ v => s.writeGPR rt v) s
    exact ⟨hvco, hvcc, hvce, fun rd => hrefused rd.val⟩

/-- A read after a write of the same select gets the value cut to the register's width (R153, R154). -/
theorem flagRead_after_writeFlag {row : Nat × FlagReg × Nat} (hrow : row ∈ flagTable) (v : Word)
    (store : FlagReg → Word → State) (s : State) :
    flagRead row.1 store (s.writeFlag row.2.1 v) =
      .next (store row.2.1 (BitVec.ofNat 32 (v.toNat % 2 ^ row.2.2))) := by
  rw [flagRead_flagTable hrow, flagNumber_writeFlag hrow]

/-- Settles O48: it holds, by the read after a write, whose value goes to the requester or to `GPR[rt']`. -/
theorem flagWriteThenReadReturnsValueCut : Obligations.FlagWriteThenReadReturnsValueCut := by
  refine ⟨fun s v row hrow => ?_, fun s rt rt' rd row hrow hrd => ?_⟩
  · refine ⟨_, _, flagWrite_flagTable hrow v s,
      (serve_flagRead row.1 _).trans (flagRead_after_writeFlag hrow v _ _), ?_⟩
    rw [State.reply_replies, State.writeFlag_replies]
  · rw [exec_ctc2, hrd]
    refine ⟨_, (s.writeFlag row.2.1 (s.gpr.get rt)).writeGPR rt' _, flagWrite_flagTable hrow _ s, ?_,
      get_set_same _ rt' _⟩
    rw [exec_cfc2, hrd]
    exact flagRead_after_writeFlag hrow _ _ s

/-! ## What a request returns -/

/-- The values a request that completes returns: the register a read names, and nothing for any other request (R41, R151). -/
def requestReplies (s : State) : Request → List Reply
  | .flagRead sel => (flagReg? sel).toList.map fun reg => .flag reg (s.readFlag reg)
  | .hostRead r => if h : r < 32 then [.vector ⟨r, h⟩ (s.vr.get ⟨r, h⟩)] else []
  | .word _ | .instr _ | .flagWrite _ _ | .hostWrite _ _ => []

theorem requestReplies_flagRead {row : Nat × FlagReg × Nat} (hrow : row ∈ flagTable) (s : State) :
    requestReplies s (.flagRead row.1) = [.flag row.2.1 (BitVec.ofNat 32 (flagNumber s row.2.1))] := by
  simp [requestReplies, flagReg?_flagTable hrow, readFlag_eq]

theorem requestReplies_hostRead (s : State) (r : RegIx) :
    requestReplies s (.hostRead r.val) = [.vector r (s.vr.get r)] := by
  simp [requestReplies]

theorem requestReplies_eq_nil (s : State) {q : Request} (hflag : ∀ sel, q ≠ .flagRead sel)
    (hhost : ∀ r, q ≠ .hostRead r) : requestReplies s q = [] := by
  cases q with
  | flagRead sel => exact absurd rfl (hflag sel)
  | hostRead r => exact absurd rfl (hhost r)
  | word | instr | flagWrite | hostWrite => rfl

/-- A request that completes appends just the values it returns. -/
theorem serve_replies {q : Request} {s t : State} (h : serve q s = .next t) :
    t.replies = s.replies ++ requestReplies s q := by
  have happend {ps : List Piece} (hframe : sameOutside ps s t) : t.replies = s.replies ++ [] := by
    obtain ⟨-, -, hreplies⟩ := hframe
    rw [hreplies, List.append_nil]
  cases q with
  | word w =>
    obtain ⟨i, -, hexec⟩ := runWord_next h
    exact happend (exec_sameOutside hexec)
  | instr i => exact happend (exec_sameOutside h)
  | flagWrite sel v => exact happend (flagWrite_sameOutside h)
  | hostWrite r v => exact happend (hostWriteVR_sameOutside h)
  | flagRead sel =>
    obtain ⟨reg, hreg, rfl⟩ := flagRead_next (store := fun reg v => s.reply (.flag reg v)) h
    simp [requestReplies, hreg]
  | hostRead r =>
    rcases hostReadVR_cases r s with ⟨r, rfl, hrun⟩ | ⟨-, hrun⟩
    · cases hrun.symm.trans h
      rw [requestReplies_hostRead, State.reply_replies]
    · cases hrun.symm.trans h

/-- A flag register zero-extended has nothing above its width (R151). -/
theorem replyFits_readFlag (s : State) (reg : FlagReg) : replyFits (.flag reg (s.readFlag reg)) = true := by
  cases reg with
  | vco => exact decide_eq_true ((BitVec.toNat_setWidth_of_le (by decide)).trans_lt s.vco.isLt)
  | vcc => exact decide_eq_true ((BitVec.toNat_setWidth_of_le (by decide)).trans_lt s.vcc.isLt)
  | vce => exact decide_eq_true ((BitVec.toNat_setWidth_of_le (by decide)).trans_lt s.vce.isLt)

theorem requestReplies_fit (s : State) (q : Request) : (requestReplies s q).all replyFits = true := by
  cases q with
  | flagRead sel => simp [requestReplies, replyFits_readFlag]
  | hostRead r =>
    by_cases hr : r < 32
    · simp [requestReplies, hr, replyFits]
    · simp [requestReplies, hr]
  | word | instr | flagWrite | hostWrite => rfl

/-! ## What a step returns -/

/-- A step that serves `q` appends just the values `q` returns. -/
theorem step_replies_of_cons {s t : State} {q : Request} {rest : List Request} (hrequests : s.requests = q :: rest)
    (h : step s = .next t) : t.replies = s.replies ++ requestReplies s q := by
  rw [step_of_requests_cons hrequests] at h
  have hsame : requestReplies { s with requests := rest } q = requestReplies s q := by cases q <;> rfl
  rw [serve_replies h, hsame]

/-- A step with no request pending appends nothing. -/
theorem step_replies_of_nil {s t : State} (hrequests : s.requests = []) (h : step s = .next t) :
    t.replies = s.replies := by
  cases (step_of_requests_nil hrequests).symm.trans h
  rfl

theorem step_keeps_repliesFit {s t : State} (hfit : repliesFit s = true) (h : step s = .next t) :
    repliesFit t = true := by
  cases hrequests : s.requests with
  | nil => rwa [repliesFit, step_replies_of_nil hrequests h]
  | cons q rest =>
    rw [repliesFit, step_replies_of_cons hrequests h, List.all_append, Bool.and_eq_true]
    exact ⟨hfit, requestReplies_fit s q⟩

/-- Settles O16: it holds, by what each request returns, which fits the register it was read from. -/
theorem stepKeepsReturnedFlagValuesInWidth : Obligations.StepKeepsReturnedFlagValuesInWidth := by
  refine fun s t hfit h => ⟨step_keeps_repliesFit hfit h, fun row hrow rest hrequests => ?_, fun r rest hrequests => ?_,
    fun hother => ?_⟩
  · rw [step_replies_of_cons hrequests h, requestReplies_flagRead hrow]
  · rw [step_replies_of_cons hrequests h, requestReplies_hostRead]
  · cases hrequests : s.requests with
    | nil => exact step_replies_of_nil hrequests h
    | cons q rest =>
      obtain ⟨hflag, hhost⟩ := hother q rest hrequests
      rw [step_replies_of_cons hrequests h, requestReplies_eq_nil s hflag hhost, List.append_nil]

end Sys2Proof.Machine
end

section
/-! The contract of requests (spec/60_exceptions.md R160 to R165): whether a request completes, and with which reason it is
refused, is a matter of the request alone; so a queue of valid requests is served to its end, one request a step. -/

namespace Sys2Proof.Machine

open Host (Outcome)

/-! ## Operands out of range -/

/-- The check names the first field out of range in the order `vd`, `vs`, `vt`, `e` (R163). -/
theorem checkOperands_firstOutOfRange (vd vs vt e : Nat) :
    (32 ≤ vd → checkOperands vd vs vt e = .error (.indexOutOfRange .vd vd)) ∧
    (vd < 32 → 32 ≤ vs → checkOperands vd vs vt e = .error (.indexOutOfRange .vs vs)) ∧
    (vd < 32 → vs < 32 → 32 ≤ vt → checkOperands vd vs vt e = .error (.indexOutOfRange .vt vt)) ∧
    (vd < 32 → vs < 32 → vt < 32 → 16 ≤ e → checkOperands vd vs vt e = .error (.indexOutOfRange .e e)) := by
  refine ⟨fun hvd => ?_, fun hvd hvs => ?_, fun hvd hvs hvt => ?_, fun hvd hvs hvt he => ?_⟩
  · simp [checkOperands, hvd.not_gt]
  · simp [checkOperands, hvd, hvs.not_gt]
  · simp [checkOperands, hvd, hvs, hvt.not_gt]
  · simp [checkOperands, hvd, hvs, hvt, he.not_gt]

/-- The check passes just the operands in range (R50). -/
theorem checkOperands_isOk (vd vs vt e : Nat) : (checkOperands vd vs vt e).isOk = operandsInRange vd vs vt e := by
  simp only [checkOperands, operandsInRange]
  split_ifs with hvd hvs hvt he
  · simp [hvd, hvs, hvt, he, Except.isOk, Except.toBool]
  · simp [he, Except.isOk, Except.toBool]
  · simp [hvt, Except.isOk, Except.toBool]
  · simp [hvs, Except.isOk, Except.toBool]
  · simp [hvd, Except.isOk, Except.toBool]

theorem withOperands_of_ok {vd vs vt e : Nat} {o : Operands} (h : checkOperands vd vs vt e = .ok o)
    (run : Operands → State) : withOperands vd vs vt e run = .next (run o) := by
  rw [withOperands, h]

theorem withOperands_of_error {vd vs vt e : Nat} {r : Refusal} (h : checkOperands vd vs vt e = .error r)
    (run : Operands → State) : withOperands vd vs vt e run = .refused r := by
  rw [withOperands, h]

/-- Every operation checks its operands before anything of it runs (R50, R161). -/
theorem exec_vuOps {mk : Nat → Nat → Nat → Nat → Instr} (hmk : mk ∈ vuOps) :
    ∃ run : State → Operands → State, ∀ vd vs vt e s, exec (mk vd vs vt e) s = withOperands vd vs vt e (run s) := by
  rcases exec_vuOps_shape hmk with ⟨_, _, hexec⟩ | ⟨_, _, _, hexec⟩ | ⟨_, hexec⟩
  · exact ⟨_, hexec⟩
  · exact ⟨_, hexec⟩
  · exact ⟨_, hexec⟩

/-- Settles O12: it holds, since each operation starts with the check, which names the first field out of range. -/
theorem operandRefusalNamesFirstField : Obligations.OperandRefusalNamesFirstField := by
  intro mk hmk vd vs vt e s
  obtain ⟨run, hexec⟩ := exec_vuOps hmk
  obtain ⟨hvd, hvs, hvt, he⟩ := checkOperands_firstOutOfRange vd vs vt e
  rw [hexec]
  exact ⟨fun h1 => withOperands_of_error (hvd h1) _, fun h1 h2 => withOperands_of_error (hvs h1 h2) _,
    fun h1 h2 h3 => withOperands_of_error (hvt h1 h2 h3) _, fun h1 h2 h3 h4 => withOperands_of_error (he h1 h2 h3 h4) _⟩

/-! ## Whether a request is served does not depend on the state -/

/-- What is inside the contract (`valid`) completes in every state, and what is outside it is refused in every state with one
and the same reason (R160, R161). -/
inductive AnswersByContract (valid : Bool) (run : State → Outcome State Fault Refusal) : Prop
  | completes (hvalid : valid = true) (hnext : ∀ s, ∃ t, run s = .next t)
  | refuses (hvalid : valid = false) (r : Refusal) (hrefused : ∀ s, run s = .refused r)

/-- A request whose contract is a bound on one number. -/
theorem AnswersByContract.of_lt {n bound : Nat} {run : State → Outcome State Fault Refusal} {r : Refusal}
    (hnext : n < bound → ∀ s, ∃ t, run s = .next t) (hrefused : bound ≤ n → ∀ s, run s = .refused r) :
    AnswersByContract (decide (n < bound)) run := by
  rcases Nat.lt_or_ge n bound with hlt | hge
  · exact .completes (decide_eq_true hlt) (hnext hlt)
  · exact .refuses (decide_eq_false hge.not_gt) r (hrefused hge)

theorem withOperands_answers (vd vs vt e : Nat) (run : State → Operands → State) :
    AnswersByContract (operandsInRange vd vs vt e) fun s => withOperands vd vs vt e (run s) := by
  rw [← checkOperands_isOk]
  cases hcheck : checkOperands vd vs vt e with
  | ok o => exact .completes rfl fun s => ⟨run s o, withOperands_of_ok hcheck _⟩
  | error r => exact .refuses rfl r fun s => withOperands_of_error hcheck _

/-- A `FlagWrite` of a select below 3 completes, whatever value is written (R31, R150). -/
theorem flagWrite_answers (sel : Nat) (v : State → Word) :
    AnswersByContract (decide (sel < 3)) fun s => flagWrite sel (v s) s := by
  refine .of_lt (fun hsel s => ?_) fun hsel s => flagWrite_outOfRange hsel (v s) s
  rcases flagWrite_cases sel (v s) s with ⟨_, -, hrun⟩ | ⟨hge, -⟩
  · exact ⟨_, hrun⟩
  · exact absurd hsel hge.not_gt

theorem flagRead_answers (sel : Nat) (store : State → FlagReg → Word → State) :
    AnswersByContract (decide (sel < 3)) fun s => flagRead sel (store s) s := by
  refine .of_lt (fun hsel s => ?_) fun hsel s => flagRead_outOfRange hsel (store s) s
  obtain ⟨_, hrun⟩ := flagRead_inRange hsel (store s) s
  exact ⟨_, hrun⟩

theorem hostWriteVR_answers (r : Nat) (v : Lanes) : AnswersByContract (decide (r < 32)) (hostWriteVR r v) :=
  .of_lt (fun hr s => ⟨_, hostWriteVR_inRange ⟨r, hr⟩ v s⟩) fun hr s => hostWriteVR_outOfRange hr v s

theorem hostReadVR_answers (r : Nat) : AnswersByContract (decide (r < 32)) (hostReadVR r) :=
  .of_lt (fun hr s => ⟨_, hostReadVR_inRange ⟨r, hr⟩ s⟩) fun hr s => hostReadVR_outOfRange hr s

theorem exec_answers (i : Instr) : AnswersByContract (inContract i) (exec i) := by
  cases i with
  | vmulf | vmulu | vmudl | vmudm | vmudn | vmudh | vmacf | vmacu | vmadl | vmadm | vmadn | vmadh | vcl | vcr =>
    exact withOperands_answers _ _ _ _ _
  | ctc2 rt rd => exact flagWrite_answers rd.val fun s => s.readGPR rt
  | cfc2 rt rd => exact flagRead_answers rd.val fun s _ v => s.writeGPR rt v

/-- A word is answered as its instruction is, and refused when it decodes to none (R57, R58, R60). -/
theorem serve_word_answers (w : Word) : AnswersByContract (validRequest (.word w)) (serve (.word w)) := by
  cases hdecode : decodeWord w with
  | ok i =>
    have hvalid : validRequest (.word w) = inContract i := by simp [validRequest, hdecode]
    rw [hvalid, funext (serve_word_of_decode hdecode)]
    exact exec_answers i
  | error r =>
    exact .refuses (by simp [validRequest, hdecode]) (refusalOfDecode r) (serve_word_of_decode_error hdecode)

/-- Every request is answered by the contract: the state decides neither whether it completes nor why it is refused. -/
theorem serve_answers (q : Request) : AnswersByContract (validRequest q) (serve q) := by
  cases q with
  | word w => exact serve_word_answers w
  | instr i => exact exec_answers i
  | flagWrite sel v => exact flagWrite_answers sel fun _ => v
  | flagRead sel => exact flagRead_answers sel fun s reg v => s.reply (.flag reg v)
  | hostWrite r v => exact hostWriteVR_answers r v
  | hostRead r => exact hostReadVR_answers r

theorem serve_of_valid {q : Request} (h : validRequest q = true) (s : State) : ∃ t, serve q s = .next t := by
  rcases serve_answers q with ⟨-, hnext⟩ | ⟨hinvalid, -, -⟩
  · exact hnext s
  · cases hinvalid.symm.trans h

theorem serve_of_invalid {q : Request} (h : validRequest q = false) : ∃ r, ∀ s, serve q s = .refused r := by
  rcases serve_answers q with ⟨hvalid, -⟩ | ⟨-, r, hrefused⟩
  · cases hvalid.symm.trans h
  · exact ⟨r, hrefused⟩

/-- Settles O10: it holds, since the request alone decides whether it is refused and why. -/
theorem refusalDependsOnRequestAlone : Obligations.RefusalDependsOnRequestAlone := by
  intro q s t r h
  rcases serve_answers q with ⟨-, hnext⟩ | ⟨-, r', hrefused⟩
  · obtain ⟨u, hu⟩ := hnext s
    cases hu.symm.trans h
  · cases (hrefused s).symm.trans h
    exact hrefused t

/-- Settles O11: it holds, by the answer of each request, and since the block has no fault to name. -/
theorem validRequestsCompleteOthersAreRefused : Obligations.ValidRequestsCompleteOthersAreRefused := by
  refine ⟨fun q s => ⟨fun hvalid => serve_of_valid hvalid s, fun hinvalid => ?_⟩, fun f => nomatch f⟩
  obtain ⟨r, hrefused⟩ := serve_of_invalid hinvalid
  exact ⟨r, hrefused s⟩

/-! ## A queue of valid requests -/

/-- Settles O55: it holds, since a valid request completes and leaves the requests behind it as they are. -/
theorem stepKeepsQueueValid : Obligations.StepKeepsQueueValid := by
  intro s hvalid
  cases hrequests : s.requests with
  | nil => exact ⟨s, step_of_requests_nil hrequests, hvalid, hrequests⟩
  | cons q rest =>
    rw [allValid, hrequests, List.all_cons, Bool.and_eq_true] at hvalid
    obtain ⟨hq, hrest⟩ := hvalid
    obtain ⟨t, hserve⟩ := serve_of_valid hq { s with requests := rest }
    obtain ⟨-, hkept, -⟩ := requestsWriteOnlyTheirDestinations q _ t hserve
    exact ⟨t, (step_of_requests_cons hrequests).trans hserve, by rwa [allValid, hkept], hkept⟩

/-- Settles O15: it holds, by induction on the number of steps: each completes, drops the oldest request and leaves a valid
queue. -/
theorem validQueueRunsToCompletion : Obligations.ValidQueueRunsToCompletion := by
  intro s hvalid n
  induction n generalizing s with
  | zero => exact ⟨s, run_zero s, rfl⟩
  | succ n ih =>
    obtain ⟨u, hstep, hvalid', htail⟩ := stepKeepsQueueValid s hvalid
    obtain ⟨t, hrun, hdrop⟩ := ih u hvalid'
    exact ⟨t, (run_succ_of_step hstep n).trans hrun, by rw [hdrop, htail, List.drop_tail]⟩

end Sys2Proof.Machine
end

section
/-! Reset and hazards (spec/70_reset_and_hazards.md R180 to R184): what a request's outcome depends on (the read-before-write
table of R182), and so which sequences of requests give the same from every INIT_STATE. -/

namespace Sys2Proof.Machine

open Host (Outcome)

/-! ## Agreement of two states -/

theorem samePiece_symm {s t : State} {p : Piece} (h : samePiece s t p) : samePiece t s p := by
  cases p <;> exact Eq.symm h

theorem samePiece_trans {s t u : State} {p : Piece} (h : samePiece s t p) (h' : samePiece t u p) : samePiece s u p := by
  cases p <;> exact Eq.trans h h'

/-- The pending requests are no piece of state. -/
theorem samePiece_withRequests {s s' : State} {rs rs' : List Request} {p : Piece} :
    samePiece { s with requests := rs } { s' with requests := rs' } p ↔ samePiece s s' p := Iff.rfl

/-- A state is its pieces, its pending requests and the values it returned. -/
theorem state_ext_of_samePiece {s t : State} (hpieces : ∀ p, samePiece s t p) (hrequests : s.requests = t.requests)
    (hreplies : s.replies = t.replies) : s = t := by
  have hvr : s.vr = t.vr := Vector.ext fun r hr => hpieces (.vr ⟨r, hr⟩)
  have hgpr : s.gpr = t.gpr := Vector.ext fun r hr => hpieces (.gpr ⟨r, hr⟩)
  have haccL : s.accL = t.accL := hpieces .accL
  have haccM : s.accM = t.accM := hpieces .accM
  have haccH : s.accH = t.accH := hpieces .accH
  have hvco : s.vco = t.vco := hpieces .vco
  have hvcc : s.vcc = t.vcc := hpieces .vcc
  have hvce : s.vce = t.vce := hpieces .vce
  cases s
  cases t
  simp_all

theorem sameOn_nil (s s' : State) : sameOn [] s s' := List.forall_mem_nil _

theorem sameOn_cons {p : Piece} {ps : List Piece} {s s' : State} :
    sameOn (p :: ps) s s' ↔ samePiece s s' p ∧ sameOn ps s s' := List.forall_mem_cons

/-- The accumulator words are the same in two states that hold the same in every accumulator lane (R23). -/
theorem sameOn_acc {s s' : State} (h : ∀ i, s.acc i = s'.acc i) : sameOn [.accL, .accM, .accH] s s' := by
  simp only [sameOn_cons, sameOn_nil, and_true]
  simp only [acc_eq_iff, forall_and] at h
  obtain ⟨hhigh, hmid, hlow⟩ := h
  exact ⟨lanes_ext hlow, lanes_ext hmid, lanes_ext hhigh⟩

/-- The accumulator lanes are the same in two states that hold the same in all three words (R23). -/
theorem acc_of_sameOn {s s' : State} (h : sameOn [.accL, .accM, .accH] s s') (i : LaneIx) : s.acc i = s'.acc i := by
  simp only [sameOn_cons, sameOn_nil, and_true] at h
  obtain ⟨hlow : s.accL = _, hmid : s.accM = _, hhigh : s.accH = _⟩ := h
  rw [acc_eq_iff, hhigh, hmid, hlow]
  exact ⟨rfl, rfl, rfl⟩

/-- A vector register written with the same value in two states is the same in both. -/
theorem samePiece_writeVR (s s' : State) (r : RegIx) (v : Lanes) :
    samePiece (s.writeVR r v) (s'.writeVR r v) (.vr r) :=
  (get_set_same s.vr r v).trans (get_set_same s'.vr r v).symm

/-! ## What each shape of operation depends on -/

section shapes

variable {o : Operands} {s s' : State}

/-- An `accumulatorOp` depends on what each lane's new accumulator is computed to (R82, R85). -/
theorem accumulatorOp_agree {f : AccLane → Lane → Lane → AccLane} {g : Lane → Lane → Lane → Lane}
    (hnew : ∀ i, f (s.acc i) (s.vsLane o i) (s.vtLane o i) = f (s'.acc i) (s'.vsLane o i) (s'.vtLane o i)) :
    sameOn [.vr o.vd, .accL, .accM, .accH] (accumulatorOp o f g s) (accumulatorOp o f g s') := by
  simp only [sameOn_cons, sameOn_nil, and_true, accumulatorOp, hnew]
  exact ⟨samePiece_writeVR _ _ _ _, rfl, rfl, rfl⟩

/-- VMADH's shape depends on the operand lanes and on the high and mid words (R115). -/
theorem accumulatorHighMidOp_agree {fh fm : Lane → Lane → Lane → Lane → Lane} {g : Lane → Lane → Lane}
    (hvs : ∀ i, s.vsLane o i = s'.vsLane o i) (hvt : ∀ i, s.vtLane o i = s'.vtLane o i)
    (hacc : sameOn [.accM, .accH] s s') :
    sameOn [.vr o.vd, .accM, .accH] (accumulatorHighMidOp o fh fm g s) (accumulatorHighMidOp o fh fm g s') := by
  simp only [sameOn_cons, sameOn_nil, and_true] at hacc ⊢
  obtain ⟨hmid : s.accM = _, hhigh : s.accH = _⟩ := hacc
  simp only [accumulatorHighMidOp, hvs, hvt, hmid, hhigh]
  exact ⟨samePiece_writeVR _ _ _ _, rfl, rfl⟩

/-- What a compare-select writes depends on the choices alone (R133, R134). -/
theorem compareSelectOp_agree {c c' : LaneIx → LaneChoice} (hc : c = c') :
    sameOn [.vr o.vd, .accL, .vco, .vcc, .vce] (compareSelectOp o c s) (compareSelectOp o c' s') := by
  subst hc
  simp only [sameOn_cons, sameOn_nil, and_true]
  exact ⟨samePiece_writeVR _ _ _ _, rfl, rfl, rfl, rfl⟩

end shapes

/-! ## What an instruction depends on -/

/-- Both outcomes are next states, which agree on the pieces listed. -/
def CompleteAgreeingOn (ps : List Piece) (a a' : Outcome State Fault Refusal) : Prop :=
  ∃ t t', a = .next t ∧ a' = .next t' ∧ sameOn ps t t'

theorem withOperands_agree {o : Operands} {ps : List Piece} {run run' : Operands → State}
    (h : sameOn (.vr o.vd :: ps) (run o) (run' o)) :
    CompleteAgreeingOn (vrPieces o.vd.val ++ ps) (withOperands o.vd.val o.vs.val o.vt.val o.e.val run)
      (withOperands o.vd.val o.vs.val o.vt.val o.e.val run') := by
  rw [vrPieces_fin]
  exact ⟨_, _, withOperands_inRange .., withOperands_inRange .., h⟩

/-- The pieces of a row that are no vector register, from the agreement on just those. -/
theorem sameOn_of_notVR {ps qs : List Piece} {s s' : State}
    (h : ∀ p ∈ ps ++ qs, (∀ r, p ≠ .vr r) → samePiece s s' p) (hqs : ∀ r, .vr r ∉ qs) : sameOn qs s s' :=
  fun p hp => h p (List.mem_append_right _ hp) fun r hr => hqs r (hr ▸ hp)

/-- An operation's outcome depends on the lanes of `VR[vs]`, the swizzled lanes of `VR[vt]`, and on the accumulator words and
flag registers of its row (R76, R182). -/
theorem exec_vuOps_agree {mk : Nat → Nat → Nat → Nat → Instr} (hmk : mk ∈ vuOps) {o : Operands} {s s' : State}
    (hvs : ∀ i, s.vsLane o i = s'.vsLane o i) (hvt : ∀ i, s.vtLane o i = s'.vtLane o i)
    (hrest : ∀ p ∈ instrReads (mk o.vd.val o.vs.val o.vt.val o.e.val), (∀ r, p ≠ .vr r) → samePiece s s' p) :
    CompleteAgreeingOn (instrWrites (mk o.vd.val o.vs.val o.vt.val o.e.val))
      (exec (mk o.vd.val o.vs.val o.vt.val o.e.val) s) (exec (mk o.vd.val o.vs.val o.vt.val o.e.val) s') := by
  simp only [vuOps, List.mem_cons, List.not_mem_nil, or_false] at hmk
  obtain rfl | rfl | rfl | rfl | rfl | rfl | rfl | rfl | rfl | rfl | rfl | rfl | rfl | rfl := hmk
  -- the multiplies read no accumulator word
  iterate 6 exact withOperands_agree (accumulatorOp_agree fun i => by rw [hvs, hvt])
  -- the multiply-accumulates but VMADH read all three
  iterate 5
    have hacc := acc_of_sameOn (sameOn_of_notVR hrest (by simp))
    exact withOperands_agree (accumulatorOp_agree fun i => by rw [hvs, hvt, hacc])
  · have hacc : sameOn [.accM, .accH] s s' := sameOn_of_notVR hrest (by simp)
    exact withOperands_agree (accumulatorHighMidOp_agree hvs hvt hacc)
  · have hflags : sameOn [.vco, .vcc, .vce] s s' := sameOn_of_notVR hrest (by simp)
    simp only [sameOn_cons, sameOn_nil, and_true] at hflags
    obtain ⟨hvco : s.vco = _, hvcc : s.vcc = _, hvce : s.vce = _⟩ := hflags
    refine withOperands_agree (compareSelectOp_agree (funext fun i => ?_))
    simp only [hvs, hvt, State.carry, State.eqFlag, State.lePrev, State.gePrev, State.ce, hvco, hvcc, hvce]
  · exact withOperands_agree (compareSelectOp_agree (funext fun i => by rw [hvs, hvt]))

/-- Operands in range as the numbers of checked operands (R50). -/
theorem operands_of_inRange {vd vs vt e : Nat} (h : operandsInRange vd vs vt e = true) :
    ∃ o : Operands, vd = o.vd.val ∧ vs = o.vs.val ∧ vt = o.vt.val ∧ e = o.e.val := by
  simp only [operandsInRange, Bool.and_eq_true, decide_eq_true_eq] at h
  obtain ⟨⟨⟨hvd, hvs⟩, hvt⟩, he⟩ := h
  exact ⟨⟨⟨vd, hvd⟩, ⟨vs, hvs⟩, ⟨vt, hvt⟩, ⟨e, he⟩⟩, rfl, rfl, rfl, rfl⟩

/-- Every operation reads `VR[vs]` and `VR[vt]` (R182). -/
theorem instrReads_vuOps {mk : Nat → Nat → Nat → Nat → Instr} (hmk : mk ∈ vuOps) (vd vs vt e : Nat) :
    vrPieces vs ++ vrPieces vt ⊆ instrReads (mk vd vs vt e) := by
  simp only [vuOps, List.mem_cons, List.not_mem_nil, or_false] at hmk
  obtain rfl | rfl | rfl | rfl | rfl | rfl | rfl | rfl | rfl | rfl | rfl | rfl | rfl | rfl := hmk
  iterate 6 exact List.Subset.refl _
  iterate 7 exact List.subset_append_left _ _
  exact List.Subset.refl _

/-- An operation on operands in range has the same outcome in two states that agree on all it reads (R182). -/
theorem exec_vuOps_agree_of_reads {mk : Nat → Nat → Nat → Nat → Instr} (hmk : mk ∈ vuOps) {vd vs vt e : Nat}
    (hrange : operandsInRange vd vs vt e = true) {s s' : State} (h : sameOn (instrReads (mk vd vs vt e)) s s') :
    CompleteAgreeingOn (instrWrites (mk vd vs vt e)) (exec (mk vd vs vt e) s) (exec (mk vd vs vt e) s') := by
  obtain ⟨o, rfl, rfl, rfl, rfl⟩ := operands_of_inRange hrange
  have hreads := instrReads_vuOps hmk o.vd.val o.vs.val o.vt.val o.e.val
  simp only [vrPieces_fin] at hreads
  have hvs : s.vr.get o.vs = s'.vr.get o.vs := h (.vr o.vs) (hreads (by simp))
  have hvt : s.vr.get o.vt = s'.vr.get o.vt := h (.vr o.vt) (hreads (by simp))
  exact exec_vuOps_agree hmk (fun i => congrArg (·.get i) hvs)
    (fun i => congrArg (·.get (swz Config.pSwz1 o.e i)) hvt) fun p hp _ => h p hp

/-! ## What the two ports depend on -/

theorem flagReg?_of_lt {sel : Nat} (h : sel < 3) : ∃ reg, flagReg? sel = some reg :=
  Option.ne_none_iff_exists'.mp fun hnone => (flagReg?_eq_none.mp hnone).not_gt h

/-- A written flag register depends on the value alone (R150). -/
theorem flagWrite_agree {sel : Nat} (hsel : sel < 3) (v : Word) (s s' : State) :
    CompleteAgreeingOn (selPieces sel) (flagWrite sel v s) (flagWrite sel v s') := by
  obtain ⟨reg, hreg⟩ := flagReg?_of_lt hsel
  refine ⟨s.writeFlag reg v, s'.writeFlag reg v, by simp [flagWrite, hreg], by simp [flagWrite, hreg], ?_⟩
  rw [selPieces_of_flagReg? hreg, sameOn_cons]
  cases reg <;> exact ⟨rfl, sameOn_nil _ _⟩

theorem readFlag_congr {s s' : State} {reg : FlagReg} (h : samePiece s s' (flagPiece reg)) :
    s.readFlag reg = s'.readFlag reg := by
  cases reg with
  | vco => exact congrArg (BitVec.setWidth 32) h
  | vcc => exact congrArg (BitVec.setWidth 32) h
  | vce => exact congrArg (BitVec.setWidth 32) h

/-- CFC2 stores what the selected flag register holds (R55, R151). -/
theorem execCfc2_agree {rt rd : RegIx} (hrd : rd.val < 3) {s s' : State} (h : sameOn (selPieces rd.val) s s') :
    CompleteAgreeingOn [.gpr rt] (execCfc2 rt rd s) (execCfc2 rt rd s') := by
  obtain ⟨reg, hreg⟩ := flagReg?_of_lt hrd
  rw [selPieces_of_flagReg? hreg, sameOn_cons] at h
  obtain ⟨hflag, -⟩ := h
  refine ⟨s.writeGPR rt (s.readFlag reg), s'.writeGPR rt (s'.readFlag reg), by simp [execCfc2, flagRead, hreg],
    by simp [execCfc2, flagRead, hreg], sameOn_cons.mpr ⟨?_, sameOn_nil _ _⟩⟩
  simp [samePiece, readFlag_congr hflag]

/-! ## What a request depends on -/

/-- An instruction inside the contract has the same outcome in two states that agree on all it reads (R182). -/
theorem exec_agree {i : Instr} (hvalid : inContract i = true) {s s' : State} (h : sameOn (instrReads i) s s') :
    CompleteAgreeingOn (instrWrites i) (exec i s) (exec i s') := by
  cases i with
  | vmulf | vmulu | vmudl | vmudm | vmudn | vmudh | vmacf | vmacu | vmadl | vmadm | vmadn | vmadh | vcl | vcr =>
    exact exec_vuOps_agree_of_reads (by simp [vuOps]) hvalid h
  | ctc2 rt rd =>
    have hgpr : s.gpr.get rt = s'.gpr.get rt := h (.gpr rt) (List.mem_singleton_self _)
    rw [exec_ctc2, exec_ctc2, hgpr]
    exact flagWrite_agree (of_decide_eq_true hvalid) _ s s'
  | cfc2 rt rd => exact execCfc2_agree (of_decide_eq_true hvalid) h

/-- A valid request completes alike in two states that agree on all it reads (R182). -/
theorem serve_agree {q : Request} (hvalid : validRequest q = true) {s s' : State}
    (h : sameOn (requestReads q) s s') : CompleteAgreeingOn (requestWrites q) (serve q s) (serve q s') := by
  cases q with
  | word w =>
    cases hdecode : decodeWord w with
    | ok i =>
      simp only [validRequest, requestReads, requestWrites, serve_word_of_decode hdecode, hdecode] at hvalid h ⊢
      exact exec_agree hvalid h
    | error r => simp [validRequest, hdecode] at hvalid
  | instr i => exact exec_agree hvalid h
  | flagWrite sel v => exact flagWrite_agree (of_decide_eq_true hvalid) v s s'
  | hostWrite r v =>
    have hr : r < 32 := of_decide_eq_true hvalid
    refine ⟨_, _, hostWriteVR_inRange ⟨r, hr⟩ v s, hostWriteVR_inRange ⟨r, hr⟩ v s', ?_⟩
    rw [requestWrites, vrPieces_fin ⟨r, hr⟩, sameOn_cons]
    exact ⟨samePiece_writeVR s s' ⟨r, hr⟩ v, sameOn_nil _ _⟩
  | flagRead sel | hostRead r =>
    obtain ⟨t, ht⟩ := serve_of_valid hvalid s
    obtain ⟨t', ht'⟩ := serve_of_valid hvalid s'
    exact ⟨t, t', ht, ht', sameOn_nil t t'⟩

/-- What a request returns depends on the pieces it reads (R151, R41, R182). -/
theorem requestReplies_congr {q : Request} {s s' : State} (h : sameOn (requestReads q) s s') :
    requestReplies s q = requestReplies s' q := by
  cases q with
  | flagRead sel =>
    cases hreg : flagReg? sel with
    | none => simp [requestReplies, hreg]
    | some reg =>
      have hflag := h (flagPiece reg) (by simp [requestReads, selPieces_of_flagReg? hreg])
      simp [requestReplies, hreg, readFlag_congr hflag]
  | hostRead r =>
    by_cases hr : r < 32
    · have hvr : s.vr.get ⟨r, hr⟩ = s'.vr.get ⟨r, hr⟩ := h (.vr ⟨r, hr⟩) (by simp [requestReads, vrPieces, hr])
      simp [requestReplies, hr, hvr]
    · simp [requestReplies, hr]
  | word | instr | flagWrite | hostWrite => rfl

/-- Settles O51: it holds, since each operation computes from the lanes and pieces of its row, and whether a request is
refused does not depend on the state. -/
theorem outcomeDependsOnlyOnPiecesRead : Obligations.OutcomeDependsOnlyOnPiecesRead := by
  refine ⟨fun q s s' h => ?_, fun mk hmk s s' vd vs vt e hvs hvt hrest => ?_⟩
  · rcases serve_answers q with ⟨hvalid, -⟩ | ⟨-, r, hrefused⟩
    · obtain ⟨t, t', ht, ht', hsame⟩ := serve_agree hvalid h
      refine .inl ⟨t, t', ht, ht', hsame, requestReplies s q, serve_replies ht, ?_⟩
      rw [requestReplies_congr h]
      exact serve_replies ht'
    · exact .inr ⟨r, hrefused s, hrefused s'⟩
  · exact exec_vuOps_agree (o := ⟨vd, vs, vt, e⟩) hmk (fun i => congrArg (·.get i) hvs) hvt hrest

/-! ## Agreement is kept -/

/-- Two runs that write the same pieces, alike, keep every other agreement of the states they started from. -/
theorem samePiece_of_frames {ps : List Piece} {s s' t t' : State} (hframe : ∀ p, p ∉ ps → samePiece s t p)
    (hframe' : ∀ p, p ∉ ps → samePiece s' t' p) (hwritten : sameOn ps t t') {p : Piece}
    (hp : p ∈ ps ∨ samePiece s s' p) : samePiece t t' p := by
  by_cases hmem : p ∈ ps
  · exact hwritten p hmem
  · have hbefore := hp.resolve_left hmem
    exact samePiece_trans (samePiece_symm (hframe p hmem)) (samePiece_trans hbefore (hframe' p hmem))

/-- A valid request served in two states that agree on all it reads keeps every agreement, adds the pieces it writes, and
returns the same values (R182, R184). -/
theorem serve_keepsAgreement {q : Request} (hvalid : validRequest q = true) {s s' : State}
    (hreads : sameOn (requestReads q) s s') (hreplies : s.replies = s'.replies) :
    ∃ t t', serve q s = .next t ∧ serve q s' = .next t' ∧ t.requests = s.requests ∧ t'.requests = s'.requests ∧
      t.replies = t'.replies ∧ ∀ p, p ∈ requestWrites q ∨ samePiece s s' p → samePiece t t' p := by
  obtain ⟨t, t', ht, ht', hwritten⟩ := serve_agree hvalid hreads
  obtain ⟨hframe, hrequests, -⟩ := requestsWriteOnlyTheirDestinations q s t ht
  obtain ⟨hframe', hrequests', -⟩ := requestsWriteOnlyTheirDestinations q s' t' ht'
  refine ⟨t, t', ht, ht', hrequests, hrequests', ?_, fun p => samePiece_of_frames hframe hframe' hwritten⟩
  rw [serve_replies ht, serve_replies ht', hreplies, requestReplies_congr hreads]

/-- Settles O56: it holds, since a step serves the oldest request, which keeps the agreement of the two states. -/
theorem stepKeepsAgreementOnKnownPieces : Obligations.StepKeepsAgreementOnKnownPieces := by
  intro known q rest s s' hrequests hrequests' hreplies hvalid hreads hknown
  obtain ⟨t, t', ht, ht', hrest, hrest', hsame, hpieces⟩ :=
    serve_keepsAgreement (s := { s with requests := rest }) (s' := { s' with requests := rest }) hvalid
      (fun p hp => samePiece_withRequests.mpr (hknown p (hreads p hp))) hreplies
  rw [step_of_requests_cons hrequests, step_of_requests_cons hrequests']
  refine ⟨t, t', ht, ht', fun p hp => hpieces p ?_, hrest, hrest', hsame⟩
  exact (List.mem_append.mp hp).imp_right fun hp => samePiece_withRequests.mpr (hknown p hp)

end Sys2Proof.Machine
end

section
/-! Reset and boot (spec/70_reset_and_hazards.md R180, R183, R184): what reset gives, a multiply by zero, and the sequences of
requests that leave nothing of INIT_STATE. -/

namespace Sys2Proof.Machine

/-! ## Reset -/

/-- Settles O17: it holds, field by field; with nothing pending a step holds the state. -/
theorem resetStartsInInitState : Obligations.ResetStartsInInitState :=
  ⟨fun init g => ⟨rfl, rfl, rfl, rfl, rfl, rfl, rfl, rfl, rfl, rfl, rfl, rfl,
    step_of_requests_nil (State.ofInit_requests init g)⟩, rfl⟩

/-! ## A multiply by zero -/

theorem productSS_zero_right (x : Lane) : productSS x 0#16 = 0 := mul_zero _
theorem productSU_zero_right (x : Lane) : productSU x 0#16 = 0 := mul_zero _
theorem productUS_zero_right (x : Lane) : productUS x 0#16 = 0 := mul_zero _
theorem productUU_zero_right (x : Lane) : productUU x 0#16 = 0 := mul_zero _

/-- The operation overwrites every accumulator lane with `c` when its second operand is zero, whatever the first operand and
the old accumulator, and its result is then zero (R96, R183). -/
def ZeroesWithAcc (mk : Nat → Nat → Nat → Nat → Instr) (c : AccLane) : Prop :=
  ∃ (f : Lane → Lane → AccLane) (g : Lane → Lane → Lane → Lane),
    (∀ x, f x 0#16 = c) ∧ g (accHigh c) (accMid c) (accLow c) = 0#16 ∧
    ∀ vd vs vt e s, exec (mk vd vs vt e) s = withOperands vd vs vt e fun o => accumulatorOp o (fun _ x y => f x y) g s

/-- The four partial products of zero are zero (R92 to R95). -/
theorem zeroesWithAcc_partialProduct {mk : Nat → Nat → Nat → Nat → Instr}
    (hmk : mk ∈ ([.vmudl, .vmudm, .vmudn, .vmudh] : List (Nat → Nat → Nat → Nat → Instr))) :
    ZeroesWithAcc mk 0#48 := by
  simp only [List.mem_cons, List.not_mem_nil, or_false] at hmk
  obtain rfl | rfl | rfl | rfl := hmk
  · exact ⟨vmudlAcc, _, fun x => by simp [vmudlAcc_eq_toAcc, productUU_zero_right], by decide, fun _ _ _ _ _ => rfl⟩
  · exact ⟨vmudmAcc, _, fun x => by simp [vmudmAcc, productSU_zero_right], by decide, fun _ _ _ _ _ => rfl⟩
  · exact ⟨vmudnAcc, _, fun x => by simp [vmudnAcc, productUS_zero_right], by decide, fun _ _ _ _ _ => rfl⟩
  · exact ⟨vmudhAcc, _, fun x => by simp [vmudhAcc_eq_toAcc, productSS_zero_right], by decide, fun _ _ _ _ _ => rfl⟩

/-- The rounding term is all that VMULF and VMULU leave of a product of zero (R90, R91). -/
theorem zeroesWithAcc_rounded {mk : Nat → Nat → Nat → Nat → Instr}
    (hmk : mk ∈ ([.vmulf, .vmulu] : List (Nat → Nat → Nat → Nat → Instr))) :
    ZeroesWithAcc mk 0x000000008000#48 := by
  have hround x : vmulfAcc x 0#16 = 0x000000008000#48 := by rw [vmulfAcc, productSS_zero_right]; decide
  simp only [List.mem_cons, List.not_mem_nil, or_false] at hmk
  obtain rfl | rfl := hmk
  · exact ⟨vmulfAcc, _, hround, by decide, fun _ _ _ _ _ => rfl⟩
  · exact ⟨vmulfAcc, _, hround, by decide, fun _ _ _ _ _ => rfl⟩

theorem zeroesWithAcc_of_mem_mulOps {mk : Nat → Nat → Nat → Nat → Instr} (hmk : mk ∈ mulOps) :
    ∃ c, ZeroesWithAcc mk c := by
  simp only [mulOps, List.mem_cons, List.not_mem_nil, or_false] at hmk
  rcases hmk with h | h | h | h | h | h
  iterate 2 exact ⟨_, zeroesWithAcc_rounded (by simp [h])⟩
  iterate 4 exact ⟨_, zeroesWithAcc_partialProduct (by simp [h])⟩

/-- A multiply by a zero register completes and leaves the same accumulator and result in every state (R183). -/
theorem ZeroesWithAcc.completes {mk : Nat → Nat → Nat → Nat → Instr} {c : AccLane} (h : ZeroesWithAcc mk c) {s : State}
    {vt : RegIx} (hzero : ∀ i, s.lane vt i = 0#16) (vd vs : RegIx) (e : Fin 16) :
    ∃ t, exec (mk vd.val vs.val vt.val e.val) s = .next t ∧ sameOutside [.vr vd, .accL, .accM, .accH] s t ∧
      ∀ i, t.acc i = c ∧ t.lane vd i = 0#16 := by
  obtain ⟨f, g, hacc, hresult, hexec⟩ := h
  refine accumulatorOp_completes (hexec ..) fun t i hnew hlane => ?_
  rw [hzero, hacc] at hnew
  rw [← accHigh_acc, ← accMid_acc, ← accLow_acc, hnew, hresult] at hlane
  exact ⟨hnew, hlane⟩

/-- Settles O41: it holds, since every product of zero is zero and only VMULF and VMULU add a rounding term. -/
theorem zeroOperandMultiplyDefinesAccumulator : Obligations.ZeroOperandMultiplyDefinesAccumulator := by
  refine fun s vd vs vt e hzero => ⟨fun mk hmk => ?_, fun mk hmk => ?_⟩
  · obtain ⟨t, ht, -, hlanes⟩ := (zeroesWithAcc_partialProduct hmk).completes hzero vd vs e
    exact ⟨t, ht, hlanes⟩
  · obtain ⟨t, ht, -, hlanes⟩ := (zeroesWithAcc_rounded hmk).completes hzero vd vs e
    exact ⟨t, ht, fun i => (hlanes i).left⟩

/-! ## Sequences of requests that define pieces -/

/-- In any two states that agree on the pieces `need` and have returned the same values, the requests `qs` complete and return
the same values, and afterwards the states agree on the pieces `ps` and wherever they agreed before (R182, R184). -/
def DefinesFrom (need : List Piece) (qs : List Request) (ps : List Piece) : Prop :=
  ∀ s s' : State, s.replies = s'.replies → sameOn need s s' →
    ∃ t t', Sys2Proof.core.run qs.length { s with requests := qs } = .next t ∧
      Sys2Proof.core.run qs.length { s' with requests := qs } = .next t' ∧ t.replies = t'.replies ∧
      ∀ p, p ∈ ps ∨ samePiece s s' p → samePiece t t' p

theorem DefinesFrom.mono {need ps ps' : List Piece} {qs : List Request} (h : DefinesFrom need qs ps) (hsub : ps' ⊆ ps) :
    DefinesFrom need qs ps' := by
  intro s s' hreplies hneed
  obtain ⟨t, t', ht, ht', hsame, hpieces⟩ := h s s' hreplies hneed
  exact ⟨t, t', ht, ht', hsame, fun p hp => hpieces p (hp.imp_left (@hsub p))⟩

/-- Sequences one after the other: the second may need what the first defines. -/
theorem DefinesFrom.append {need need' pa pb : List Piece} {a b : List Request} (ha : DefinesFrom need a pa)
    (hb : DefinesFrom need' b pb) (hneed' : need' ⊆ pa ++ need) : DefinesFrom need (a ++ b) (pa ++ pb) := by
  intro s s' hreplies hneed
  obtain ⟨t, t', ht, ht', hreplies', hpieces⟩ := ha s s' hreplies hneed
  have hbetween : sameOn need' t t' := fun p hp =>
    hpieces p ((List.mem_append.mp (hneed' hp)).imp_right (hneed p))
  obtain ⟨u, u', hu, hu', hreplies'', hpieces'⟩ := hb t t' hreplies' hbetween
  rw [List.length_append, requestsTakeEffectInIssueOrder s t a b _ ht, requestsTakeEffectInIssueOrder s' t' a b _ ht']
  refine ⟨u, u', hu, hu', hreplies'', fun p hp => hpieces' p ?_⟩
  rw [List.mem_append, or_assoc] at hp
  rcases hp with hp | hp | hp
  · exact .inr (hpieces p (.inl hp))
  · exact .inl hp
  · exact .inr (hpieces p (.inr hp))

/-- A run of one request is its service (R46). -/
theorem run_of_serve {q : Request} {s t : State} (h : serve q { s with requests := [] } = .next t) :
    Sys2Proof.core.run [q].length { s with requests := [q] } = .next t :=
  run_succ_of_step ((step_cons s q []).trans h) 0

/-- One valid request defines what it writes, from what it reads (R182). -/
theorem definesFrom_request {need : List Piece} {q : Request} (hvalid : validRequest q = true)
    (hreads : requestReads q ⊆ need) : DefinesFrom need [q] (requestWrites q) := by
  intro s s' hreplies hneed
  obtain ⟨t, t', ht, ht', -, -, hsame, hpieces⟩ :=
    serve_keepsAgreement (s := { s with requests := [] }) (s' := { s' with requests := [] }) hvalid
      (fun p hp => samePiece_withRequests.mpr (hneed p (hreads hp))) hreplies
  exact ⟨t, t', run_of_serve ht, run_of_serve ht', hsame,
    fun p hp => hpieces p (hp.imp_right samePiece_withRequests.mpr)⟩

/-- A sequence of valid requests that reads only what is known defines all that is known after it (R184). -/
theorem definesFrom_of_readsDefined {known : List Piece} {qs : List Request} (hvalid : qs.all validRequest = true)
    (hreads : readsDefined known qs = true) : DefinesFrom known qs (knownAfter known qs) := by
  induction qs generalizing known with
  | nil =>
    exact fun s s' hreplies hneed => ⟨_, _, run_zero _, run_zero _, hreplies,
      fun p hp => samePiece_withRequests.mpr (hp.elim (hneed p) id)⟩
  | cons q rest ih =>
    rw [List.all_cons, Bool.and_eq_true] at hvalid
    rw [readsDefined, Bool.and_eq_true, List.all_eq_true] at hreads
    obtain ⟨hq, hrest⟩ := hvalid
    obtain ⟨hreadsq, hreadsrest⟩ := hreads
    have hfirst := definesFrom_request hq fun p hp => of_decide_eq_true (hreadsq p hp)
    exact (hfirst.append (ih hrest hreadsrest) (List.Subset.refl _)).mono (List.subset_append_right _ _)

theorem readsDefined_of_reads_nil {qs : List Request} (h : ∀ q ∈ qs, requestReads q = []) (known : List Piece) :
    readsDefined known qs = true := by
  induction qs generalizing known with
  | nil => rfl
  | cons q rest ih =>
    obtain ⟨hq, hrest⟩ := List.forall_mem_cons.mp h
    simp [readsDefined, hq, ih hrest]

/-- What a request of a sequence writes is known after the sequence. -/
theorem mem_knownAfter_of_mem_writes {qs : List Request} {q : Request} (hq : q ∈ qs) {p : Piece}
    (hp : p ∈ requestWrites q) (known : List Piece) : p ∈ knownAfter known qs := by
  induction hq generalizing known with
  | head rest => exact mem_knownAfter_of_mem rest (List.mem_append_left _ hp)
  | tail _ _ ih => exact ih _

/-- Valid requests that read nothing define all that any of them writes. -/
theorem definesFrom_of_reads_nil {qs : List Request} {ps : List Piece} (hvalid : ∀ q ∈ qs, validRequest q = true)
    (hreads : ∀ q ∈ qs, requestReads q = []) (hwrites : ∀ p ∈ ps, ∃ q ∈ qs, p ∈ requestWrites q) :
    DefinesFrom [] qs ps := by
  refine (definesFrom_of_readsDefined (List.all_eq_true.mpr hvalid) (readsDefined_of_reads_nil hreads [])).mono ?_
  intro p hp
  obtain ⟨q, hq, hpq⟩ := hwrites p hp
  exact mem_knownAfter_of_mem_writes hq hpq []

/-! ## From reset -/

/-- Two resets with the same scalar file agree on it (R180, R55). -/
theorem sameOn_gprPieces_ofInit (init init' : InitState) (g : Vector Word 32) :
    sameOn gprPieces (State.ofInit init g) (State.ofInit init' g) := by
  intro p hp
  obtain ⟨r, -, rfl⟩ := List.mem_map.mp hp
  rfl

/-- Settles O52: it holds, by induction on the sequence: each request keeps the agreement on what is known and extends it. -/
theorem definedProgramsIgnoreInitState : Obligations.DefinedProgramsIgnoreInitState := by
  intro init init' g qs hvalid hreads
  obtain ⟨t, t', ht, ht', hsame, hpieces⟩ := definesFrom_of_readsDefined hvalid hreads (State.ofInit init g)
    (State.ofInit init' g) rfl (sameOn_gprPieces_ofInit init init' g)
  exact ⟨t, t', ht, ht', hsame, fun p hp => hpieces p (.inl hp)⟩

/-- A sequence that defines every piece but the scalar registers leaves nothing of INIT_STATE (R183, R184). -/
theorem DefinesFrom.erasesInitState {need ps : List Piece} {boot : List Request} (h : DefinesFrom need boot ps)
    (hneed : need ⊆ gprPieces) (hps : ∀ p, p ∈ ps ∨ p ∈ gprPieces) : erasesInitState boot := by
  intro init init' g rest n
  have hgpr := sameOn_gprPieces_ofInit init init' g
  obtain ⟨t, t', ht, ht', hsame, hpieces⟩ := h (State.ofInit init g) (State.ofInit init' g) rfl
    fun p hp => hgpr p (hneed hp)
  have hstate : { t with requests := rest } = { t' with requests := rest } :=
    state_ext_of_samePiece (fun p => samePiece_withRequests.mpr (hpieces p ((hps p).imp_right (hgpr p)))) rfl hsame
  rw [requestsTakeEffectInIssueOrder _ t boot rest n ht, requestsTakeEffectInIssueOrder _ t' boot rest n ht', hstate]

/-! ## The three steps of R183 -/

/-- The vector registers, as pieces. -/
def vrFile : List Piece := (List.finRange 32).map .vr

/-- The accumulator words, as pieces. -/
def accWords : List Piece := [.accL, .accM, .accH]

/-- The flag registers, as pieces. -/
def flagRegs : List Piece := [.vco, .vcc, .vce]

theorem mem_vrFile (r : RegIx) : .vr r ∈ vrFile := List.mem_map_of_mem (List.mem_finRange r)

/-- What the three steps define and the scalar registers are all there is. -/
theorem mem_bootPieces_or_gprPieces (p : Piece) : p ∈ vrFile ++ accWords ++ flagRegs ∨ p ∈ gprPieces := by
  cases p <;> simp [vrFile, accWords, flagRegs, gprPieces]

/-- Step 1 of R183 defines the vector registers. -/
theorem definesFrom_bootRegisters {order : List RegIx} (horder : order.Perm (List.finRange 32)) (v : RegIx → Lanes) :
    DefinesFrom [] (bootRegisters order v) vrFile := by
  refine definesFrom_of_reads_nil (fun q hq => ?_) (fun q hq => ?_) fun p hp => ?_
  · obtain ⟨r, -, rfl⟩ := List.mem_map.mp hq
    exact decide_eq_true r.isLt
  · obtain ⟨r, -, rfl⟩ := List.mem_map.mp hq
    rfl
  · obtain ⟨r, hr, rfl⟩ := List.mem_map.mp hp
    refine ⟨.hostWrite r.val (v r), List.mem_map_of_mem (horder.mem_iff.mpr hr), ?_⟩
    rw [requestWrites, vrPieces_fin]
    exact List.mem_singleton_self _

/-- Step 3 of R183 by FlagWrites, in any order, defines the flag registers. -/
theorem definesFrom_bootFlagWrites {f0 f1 f2 : Word} {flags : List Request}
    (hflags : flags.Perm (bootFlagWrites f0 f1 f2)) : DefinesFrom [] flags flagRegs := by
  refine definesFrom_of_reads_nil ?_ ?_ ?_
  · simp [hflags.mem_iff, bootFlagWrites, validRequest]
  · simp [hflags.mem_iff, bootFlagWrites, requestReads]
  · simp [hflags.mem_iff, bootFlagWrites, flagRegs, requestWrites, selPieces, flagReg?, flagPiece]

/-- Step 3 of R183 by one VCR defines the flag registers, from registers that are defined (R132, R182). -/
theorem definesFrom_vcr (vd vs vt : RegIx) (e : Fin 16) :
    DefinesFrom vrFile [.instr (.vcr vd.val vs.val vt.val e.val)] flagRegs := by
  have hvalid : validRequest (.instr (.vcr vd.val vs.val vt.val e.val)) = true := by
    simp [validRequest, inContract, Instr.wellFormed, operandsInRange]
  refine (definesFrom_request hvalid ?_).mono fun p hp => List.mem_append_right _ (List.mem_cons_of_mem _ hp)
  simp [requestReads, instrReads, vrPieces_fin, mem_vrFile]

/-- What a multiply by a zero register leaves, whatever the state before. -/
structure AfterZeroMultiply (zeroReg vd : RegIx) (c : AccLane) (t : State) : Prop where
  zero : ∀ i, t.lane zeroReg i = 0#16
  result : ∀ i, t.lane vd i = 0#16
  acc : ∀ i, t.acc i = c

/-- The pieces that step 2 of R183 writes. -/
def zeroMultiplyWrites (zeroReg vd : RegIx) : List Piece := [.vr zeroReg] ++ (.vr vd :: accWords)

theorem AfterZeroMultiply.sameOn {zeroReg vd : RegIx} {c : AccLane} {t t' : State}
    (h : AfterZeroMultiply zeroReg vd c t) (h' : AfterZeroMultiply zeroReg vd c t') :
    sameOn (zeroMultiplyWrites zeroReg vd) t t' := by
  refine sameOn_cons.mpr ⟨?_, sameOn_cons.mpr ⟨?_, sameOn_acc fun i => (h.acc i).trans (h'.acc i).symm⟩⟩
  · exact lanes_ext fun i => (h.zero i).trans (h'.zero i).symm
  · exact lanes_ext fun i => (h.result i).trans (h'.result i).symm

theorem lane_writeVR_zeros (s : State) (r : RegIx) (i : LaneIx) :
    (s.writeVR r (Vector.replicate 8 0#16)).lane r i = 0#16 := by
  simp [Vector.get_eq_getElem]

/-- Step 2 of R183 from any state: what it leaves, and what it keeps. -/
theorem run_bootAccumulator {mk : Nat → Nat → Nat → Nat → Instr} {c : AccLane} (h : ZeroesWithAcc mk c)
    (zeroReg vd vs : RegIx) (e : Fin 16) (s : State) :
    ∃ t, Sys2Proof.core.run (bootAccumulator mk zeroReg vd vs e).length
        { s with requests := bootAccumulator mk zeroReg vd vs e } = .next t ∧
      t.replies = s.replies ∧ (∀ p, p ∉ zeroMultiplyWrites zeroReg vd → samePiece s t p) ∧
      AfterZeroMultiply zeroReg vd c t := by
  have hwrite := run_of_serve (q := .hostWrite zeroReg.val (Vector.replicate 8 0#16)) (s := s)
    (hostWriteVR_inRange zeroReg _ _)
  obtain ⟨hwritten, -, -⟩ := writeVR_sameOutside { s with requests := [] } zeroReg (Vector.replicate 8 0#16)
  have hzero := lane_writeVR_zeros { s with requests := [] } zeroReg
  obtain ⟨t, hexec, hframe, hlanes⟩ := h.completes hzero vd vs e
  have hmultiply := run_of_serve (q := .instr (mk vd.val vs.val zeroReg.val e.val)) (s := State.writeVR _ _ _) hexec
  refine ⟨t, (requestsTakeEffectInIssueOrder s _ _ _ 1 hwrite).trans hmultiply, ?_, fun p hp => ?_, fun i => ?_,
    fun i => (hlanes i).right, fun i => (hlanes i).left⟩
  · obtain ⟨-, -, hreplies⟩ := hframe
    exact hreplies
  · obtain ⟨hmultiplied, -, -⟩ := hframe
    rw [zeroMultiplyWrites, List.mem_append, not_or] at hp
    obtain ⟨hzeroReg, hrest⟩ := hp
    exact samePiece_trans (hwritten p hzeroReg) (hmultiplied p hrest)
  · by_cases hvd : zeroReg = vd
    · rw [hvd]
      exact (hlanes i).right
    · exact (lane_of_sameOutside hframe (by simp [hvd]) i).trans (hzero i)

/-- Step 2 of R183 defines the accumulator, whether or not `VR[vs]` is defined. -/
theorem definesFrom_bootAccumulator {mk : Nat → Nat → Nat → Nat → Instr} (hmk : mk ∈ mulOps) (zeroReg vd vs : RegIx)
    (e : Fin 16) : DefinesFrom [] (bootAccumulator mk zeroReg vd vs e) accWords := by
  obtain ⟨c, hc⟩ := zeroesWithAcc_of_mem_mulOps hmk
  intro s s' hreplies _
  obtain ⟨t, ht, hkept, hframe, hafter⟩ := run_bootAccumulator hc zeroReg vd vs e s
  obtain ⟨t', ht', hkept', hframe', hafter'⟩ := run_bootAccumulator hc zeroReg vd vs e s'
  refine ⟨t, t', ht, ht', by rw [hkept, hkept', hreplies], fun p hp => ?_⟩
  exact samePiece_of_frames hframe hframe' (hafter.sameOn hafter')
    (hp.imp_left fun hacc => List.mem_append_right _ (List.mem_cons_of_mem _ hacc))

/-! ## Boot sequences -/

/-- Three sequences that need nothing define their pieces in each of their six orders. -/
theorem definesFrom_stepOrders {a b c boot : List Request} {pa pb pc : List Piece} (ha : DefinesFrom [] a pa)
    (hb : DefinesFrom [] b pb) (hc : DefinesFrom [] c pc) (hboot : boot ∈ stepOrders a b c) :
    DefinesFrom [] boot (pa ++ pb ++ pc) := by
  have hseq {x y z : List Request} {px py pz : List Piece} (hx : DefinesFrom [] x px) (hy : DefinesFrom [] y py)
      (hz : DefinesFrom [] z pz) : DefinesFrom [] (x ++ y ++ z) (px ++ py ++ pz) :=
    (hx.append hy (List.nil_subset _)).append hz (List.nil_subset _)
  simp only [stepOrders, List.mem_cons, List.not_mem_nil, or_false] at hboot
  obtain rfl | rfl | rfl | rfl | rfl | rfl := hboot
  · exact hseq ha hb hc
  · exact (hseq ha hc hb).mono (by simp)
  · exact (hseq hb ha hc).mono (by simp)
  · exact (hseq hb hc ha).mono (by simp)
  · exact (hseq hc ha hb).mono (by simp)
  · exact (hseq hc hb ha).mono (by simp)

/-- Settles O53: it holds. A boot that defines every piece leaves two resets in the same state; the steps of R183 are such
boots, the multiply since its accumulator and result are the same whatever `VR[vs]` holds, the VCR once the registers are
defined. -/
theorem bootSequenceErasesInitState : Obligations.BootSequenceErasesInitState := by
  refine ⟨fun boot hvalid hreads hall => ?_, fun order horder mk hmk v zeroReg vd vs e => ⟨?_, ?_⟩⟩
  · exact (definesFrom_of_readsDefined hvalid hreads).erasesInitState (List.Subset.refl _)
      fun p => .inl (hall p (mem_allPieces p))
  all_goals
    have hregisters := definesFrom_bootRegisters horder v
    have haccumulator := definesFrom_bootAccumulator hmk zeroReg vd vs e
  · intro f0 f1 f2 flags hflags boot hboot
    exact (definesFrom_stepOrders hregisters haccumulator (definesFrom_bootFlagWrites hflags) hboot).erasesInitState
      (List.nil_subset _) mem_bootPieces_or_gprPieces
  · intro vd' vs' vt' e' vcr boot hboot
    have hvcr := definesFrom_vcr vd' vs' vt' e'
    simp only [List.mem_cons, List.not_mem_nil, or_false] at hboot
    have hdefines : DefinesFrom [] boot (vrFile ++ accWords ++ flagRegs) := by
      obtain rfl | rfl | rfl := hboot
      · exact (hregisters.append haccumulator (List.nil_subset _)).append hvcr (by simp)
      · exact ((hregisters.append hvcr (by simp)).append haccumulator (List.nil_subset _)).mono (by simp)
      · exact ((haccumulator.append hregisters (List.nil_subset _)).append hvcr (by simp)).mono (by simp)
    exact hdefines.erasesInitState (List.nil_subset _) mem_bootPieces_or_gprPieces

end Sys2Proof.Machine
end

section
/-! The words of spec/95_test_vectors.md section 2.8: each decoding word is the encoding of its instruction, each refused word
falls under one of the decoder's two refusals. -/

namespace Sys2Proof.Machine

/-- A word is decoded by naming the well-formed instruction that it encodes (R60). -/
theorem decodeWord_of_encode_eq {w : Word} {i : Instr} (hwf : i.wellFormed = true) (hw : encode i = w) :
    decodeWord w = .ok i := by
  rw [← hw, decodeWord_encode hwf]

/-- Settles O1: it holds. The eight decoding words are encodings; of the five refused ones two have a function code outside
the table (R57) and three are of no format (R58). -/
theorem specWordsDecode : Obligations.SpecWordsDecode := by
  refine ⟨?vmulfZero, ?vmulfOnes, ?vmacf, ?vmadh, ?vcl, ?vcr, ?ctc2, ?cfc2, ?functVadd, ?functLast, ?ctc2Bit0, ?mtc2,
    ?zero⟩
  case vmulfZero | vmulfOnes | vmacf | vmadh | vcl | vcr | ctc2 | cfc2 =>
    exact decodeWord_of_encode_eq rfl rfl
  case functVadd | functLast => exact decodeWord_functNotInBlock rfl (by simp [functTable, fieldAt])
  case ctc2Bit0 | mtc2 | zero => exact decodeWord_notBlockWord (by decide) (by decide) (by decide)

end Sys2Proof.Machine
end
